-- ==== Sys2Proof/Word.lean ====
section
/-! DEFINITION. The word and byte types and the two fixed-size shapes of the engine: four of a
thing (the words of a block, the bytes of a word) and eight of a thing (the lanes). -/

namespace Sys2Proof

/-- WORD: every cipher word, round key, table entry and lane is 32 bits (00_scope.md R6). -/
abbrev Word := BitVec 32

/-- One byte of memory, of a key or of a block. -/
abbrev Byte := BitVec 8

/-- Four like things in order: the words 0..3 of a block or key, the bytes 0..3 of a word, the
window X0..X3 or S0..S3, the lane-vectors V0..V3 (00_scope.md R6; 10_state.md R37 to R39). -/
structure Quad (α : Type) where
  w0 : α
  w1 : α
  w2 : α
  w3 : α
deriving DecidableEq, Repr

/-- Eight like things in order, one per lane: a lane-vector is `Lanes Word`, the block registers
B0..B7 are `Lanes ByteBlock` (00_scope.md R6, R11; 10_state.md R39). -/
structure Lanes (α : Type) where
  lane0 : α
  lane1 : α
  lane2 : α
  lane3 : α
  lane4 : α
  lane5 : α
  lane6 : α
  lane7 : α
deriving DecidableEq, Repr

/-- A block or key as its four big-endian words. -/
abbrev Block := Quad Word

/-- A 16-byte block as bytes: byte 4i + k is byte k of row i (10_state.md R39, B0..B7). -/
abbrev ByteBlock := Quad (Quad Byte)

end Sys2Proof
end

