-- ==== Sys2Proof/Syntax.lean ====
section
/-! DEFINITION. The commands: one constructor per row of spec/opcode_table.json. -/

namespace Sys2Proof

/-- The four commands of the engine (30_encoding.md R72, R78). `len` is the field LEN, the byte
length the host declares; it is the only operand a command word carries (R73, R76). -/
inductive Instr where
  /-- OP 0x1: construct the cipher instance from the key in KEY0..3 (R131). -/
  | keyset (len : Nat)
  /-- OP 0x2: encrypt the block in DIN0..3 (R144). -/
  | enc (len : Nat)
  /-- OP 0x3: decrypt the block in DIN0..3 (R145). -/
  | dec (len : Nat)
  /-- OP 0x4: encrypt NBLK blocks of memory (R180). -/
  | encn (len : Nat)
deriving DecidableEq, Repr

/-- The LEN field of a command. -/
def Instr.len : Instr → Nat
  | .keyset len => len
  | .enc len => len
  | .dec len => len
  | .encn len => len

end Sys2Proof
end

