-- ==== Sys2Proof/WellFormed.lean ====
section
/-! DEFINITION. Which commands a command word can carry: the one field, LEN, is 8 bits wide. -/

namespace Sys2Proof

/-- LEN is an 8-bit unsigned count: `len=n` "with n in 0..255" (30_encoding.md R71, R73, R80). -/
def Instr.wf (i : Instr) : Bool := decide (i.len ≤ 255)

end Sys2Proof
end

