-- ==== Sys2Proof/Decode.lean ====
section
/-! DEFINITION. The decoder of command words (30_encoding.md R71 to R78), total on 32-bit words and
rejecting by name, and the encoder. -/

namespace Sys2Proof

/-- `w[hi:lo]`: the unsigned value of a bit field (00_scope.md R8). -/
def bits (w : Word) (hi lo : Nat) : Nat := w.toNat / 2 ^ lo % 2 ^ (hi + 1 - lo)

/-- Why a word is no command. Each of them is Error(ILLEGAL_CMD) for the engine. -/
inductive Reject where
  /-- RSV0 (bits 7:4) or RSV1 (bits 31:16) is not 0 (R75). -/
  | reservedBits
  /-- OP 0x5, kept for batched decryption and not implemented (R74). -/
  | reservedOp
  /-- OP 0x0 or 0x6 to 0xF (R74). -/
  | illegalOp
deriving DecidableEq, Repr

/-- The decode function of 30_encoding.md R78. -/
def decode (w : Word) : Except Reject Instr :=
  if bits w 31 16 ≠ 0 ∨ bits w 7 4 ≠ 0 then .error .reservedBits
  else
    match bits w 3 0 with
    | 1 => .ok (.keyset (bits w 15 8))
    | 2 => .ok (.enc (bits w 15 8))
    | 3 => .ok (.dec (bits w 15 8))
    | 4 => .ok (.encn (bits w 15 8))
    | 5 => .error .reservedOp
    | _ => .error .illegalOp

/-- The OP field of a command (30_encoding.md R72). -/
def Instr.op : Instr → Nat
  | .keyset _ => 1
  | .enc _ => 2
  | .dec _ => 3
  | .encn _ => 4

/-- The word of a well-formed command: `(n << 8) | OP` (30_encoding.md R71, R80). -/
def encode (i : Instr) : Word := (BitVec.ofNat 32 i.len <<< 8) ||| BitVec.ofNat 32 i.op

/-- The `match` value of a command's row in the opcode map (30_encoding.md R77). -/
def Instr.matchWord : Instr → Word
  | .keyset _ => 0x00000001
  | .enc _ => 0x00000002
  | .dec _ => 0x00000003
  | .encn _ => 0x00000004

/-- The `mask` of every row of the opcode map (30_encoding.md R77). -/
def rowMask : Word := 0xFFFF00FF

/-- What the decoder reads from an instruction whose bits are `w`, of `nbits` bits with every bit
above them 0. A command is one 32-bit word and has no byte layout (30_encoding.md R70), so a bit
pattern that does not fit in 32 bits is no command word. -/
def decodeTableWord (nbits w : Nat) : Option Instr :=
  if w % 2 ^ nbits < 2 ^ 32 then
    match decode (BitVec.ofNat 32 (w % 2 ^ nbits)) with
    | .ok i => some i
    | .error _ => none
  else none

end Sys2Proof
end

