-- ==== Sys2Proof/Machine/Bits.lean ====
section
/-! DEFINITION. Word operations and byte order (00_scope.md R9, R11; 20_memory.md R54), and access
to the parts of the fixed-size shapes. -/

namespace Sys2Proof

/-- `rotl32(x, n)`, the cyclic left rotation (00_scope.md R9). -/
def rotl32 (x : Word) (n : Nat) : Word :=
  if n = 0 then x else (x <<< n) ||| (x >>> (32 - n))

/-- `rotr32(x, n)` (00_scope.md R9). -/
def rotr32 (x : Word) (n : Nat) : Word := rotl32 x ((32 - n) % 32)

/-- `byte_k(x) = x[31-8k : 24-8k]`: byte_0 is the most significant byte (00_scope.md R9). -/
def byteOf (k : Nat) (x : Word) : Byte := BitVec.ofNat 8 (x.toNat / 2 ^ (24 - 8 * k))

/-- `be32(b0, b1, b2, b3)`, the big-endian word of four bytes (00_scope.md R9). -/
def be32 (b : Quad Byte) : Word :=
  (b.w0.setWidth 32 <<< 24) ||| (b.w1.setWidth 32 <<< 16) ||| (b.w2.setWidth 32 <<< 8)
    ||| b.w3.setWidth 32

/-- `bytes_be32(w)`, the inverse of be32 (00_scope.md R9). -/
def bytesBe32 (w : Word) : Quad Byte := ⟨byteOf 0 w, byteOf 1 w, byteOf 2 w, byteOf 3 w⟩

/-- The same operation on each of the four parts. -/
def Quad.map {α β : Type} (f : α → β) (q : Quad α) : Quad β := ⟨f q.w0, f q.w1, f q.w2, f q.w3⟩

/-- The four parts in ascending order. -/
def Quad.toList {α : Type} (q : Quad α) : List α := [q.w0, q.w1, q.w2, q.w3]

/-- Part i. -/
def Quad.get {α : Type} (q : Quad α) : Fin 4 → α
  | 0 => q.w0
  | 1 => q.w1
  | 2 => q.w2
  | 3 => q.w3

/-- Replace part i. -/
def Quad.set {α : Type} (q : Quad α) (v : α) : Fin 4 → Quad α
  | 0 => { q with w0 := v }
  | 1 => { q with w1 := v }
  | 2 => { q with w2 := v }
  | 3 => { q with w3 := v }

/-- The parts in reverse order (42_scalar_engine.md R141; 43_vector_engine.md R168). -/
def Quad.reverse {α : Type} (q : Quad α) : Quad α := ⟨q.w3, q.w2, q.w1, q.w0⟩

/-- `(w0, w1, w2, w3) <- (w1, w2, w3, next)`: a window shifted by one (41_key_schedule.md R130;
42_scalar_engine.md R140; 43_vector_engine.md R167). -/
def Quad.shiftIn {α : Type} (q : Quad α) (next : α) : Quad α := ⟨q.w1, q.w2, q.w3, next⟩

/-- The four words of a 16-byte block, each big-endian (20_memory.md R54). -/
def ByteBlock.words (b : ByteBlock) : Block := Quad.map be32 b

/-- A block serialized big-endian (20_memory.md R54; 42_scalar_engine.md R141). -/
def Block.bytes (x : Block) : ByteBlock := Quad.map bytesBe32 x

/-- The 16 bytes of a block in ascending order (20_memory.md R54). -/
def ByteBlock.toList (b : ByteBlock) : List Byte :=
  b.w0.toList ++ b.w1.toList ++ b.w2.toList ++ b.w3.toList

/-- Four consecutive bytes of a byte list. -/
def quadAt (l : List Byte) (k : Nat) : Quad Byte :=
  ⟨l.getD k 0, l.getD (k + 1) 0, l.getD (k + 2) 0, l.getD (k + 3) 0⟩

/-- The block of a list of 16 bytes in ascending order: byte 4i + k is byte k of row i. -/
def ByteBlock.ofList (l : List Byte) : ByteBlock :=
  ⟨quadAt l 0, quadAt l 4, quadAt l 8, quadAt l 12⟩

/-- Lane j. -/
def Lanes.get {α : Type} (v : Lanes α) : Fin 8 → α
  | 0 => v.lane0
  | 1 => v.lane1
  | 2 => v.lane2
  | 3 => v.lane3
  | 4 => v.lane4
  | 5 => v.lane5
  | 6 => v.lane6
  | 7 => v.lane7

/-- An operation applied lane by lane (00_scope.md R11). -/
def Lanes.map {α β : Type} (f : α → β) (v : Lanes α) : Lanes β :=
  ⟨f v.lane0, f v.lane1, f v.lane2, f v.lane3, f v.lane4, f v.lane5, f v.lane6, f v.lane7⟩

/-- A two-operand operation applied lane by lane (00_scope.md R11). -/
def Lanes.map2 {α β γ : Type} (f : α → β → γ) (u : Lanes α) (v : Lanes β) : Lanes γ :=
  ⟨f u.lane0 v.lane0, f u.lane1 v.lane1, f u.lane2 v.lane2, f u.lane3 v.lane3,
    f u.lane4 v.lane4, f u.lane5 v.lane5, f u.lane6 v.lane6, f u.lane7 v.lane7⟩

/-- A four-operand operation applied lane by lane (43_vector_engine.md R169). -/
def Lanes.map4 {α β : Type} (f : α → α → α → α → β) (u v w x : Lanes α) : Lanes β :=
  ⟨f u.lane0 v.lane0 w.lane0 x.lane0, f u.lane1 v.lane1 w.lane1 x.lane1,
    f u.lane2 v.lane2 w.lane2 x.lane2, f u.lane3 v.lane3 w.lane3 x.lane3,
    f u.lane4 v.lane4 w.lane4 x.lane4, f u.lane5 v.lane5 w.lane5 x.lane5,
    f u.lane6 v.lane6 w.lane6 x.lane6, f u.lane7 v.lane7 w.lane7 x.lane7⟩

/-- `bcast(w)`: every lane equal to w (00_scope.md R11). -/
def bcast {α : Type} (a : α) : Lanes α := ⟨a, a, a, a, a, a, a, a⟩

/-- `A ^ B`, lane by lane (00_scope.md R11). -/
def Lanes.xor (u v : Lanes Word) : Lanes Word := Lanes.map2 (· ^^^ ·) u v

/-- The eight lanes in ascending order. -/
def Lanes.toList {α : Type} (v : Lanes α) : List α :=
  [v.lane0, v.lane1, v.lane2, v.lane3, v.lane4, v.lane5, v.lane6, v.lane7]

end Sys2Proof
end

