-- ==== Sys2Proof/Config.lean ====
section
/-! DEFINITION. The parameters of 00_scope.md R7, which no step changes, and the free values: what
the spec leaves unspecified, as constants without a body. -/

namespace Sys2Proof

/-- ADDR_W, the memory address width: 32 or 64 bits (00_scope.md R7; 92_eei_decisions.md D14). -/
inductive AddrWidth where
  | w32
  | w64
deriving DecidableEq, Repr

/-- The kind of a memory access (20_memory.md R51). -/
inductive AccessKind where
  | read
  | write
deriving DecidableEq, Repr

/-- One clause of MEM_ADMIT: the platform accepts accesses of this kind that lie inside
[lo, hi). Log 8: a list of such windows expresses every predicate on 16-byte accesses. -/
structure Window where
  kind : AccessKind
  lo : Nat
  hi : Nat
deriving DecidableEq, Repr

/-- The addresses [lo, hi). -/
structure Range where
  lo : Nat
  hi : Nat
deriving DecidableEq, Repr

/-- The open parameters of 00_scope.md R7 as plain data (log 7). -/
structure Config where
  /-- ADDR_W (92_eei_decisions.md D14). -/
  addrW : AddrWidth
  /-- ENGINE_BASE, the register block's address in the host's address space (D2). -/
  engineBase : Nat
  /-- MEM_ADMIT(addr, n, kind), as the windows it admits (D18; 20_memory.md R51). -/
  windows : List Window
  /-- The memory that is not plain memory: reads with side effects, or reads that do not return the
  last bytes written (20_memory.md R59; 93_implementation_defined.md U7; log 10). -/
  device : List Range
deriving DecidableEq, Repr

/-- The configuration State.reset has (DESIGN CHOICE, log 7; no statement rests on it). -/
def Config.initial : Config :=
  { addrW := .w32
    engineBase := 0
    windows := [⟨.read, 0, 2 ^ 32⟩, ⟨.write, 0, 2 ^ 32⟩]
    device := [] }

/-- VEC_ALIGN: the alignment both ENCN pointers need for the vector path (00_scope.md R7). -/
def vecAlign : Nat := 32

/-- FREE VALUE (log 3): what a register still holding its unspecified reset value reads as, for the
number of host operations served and the register's offset. The spec "fixes nothing about it, not
even that two reads with no write between them agree" (10_state.md R43). -/
opaque Config.freeWord : Nat → Nat → Word

/-- FREE VALUE (logs 5, 6): a byte of ENCN's destination range after Error(MEM) or an abandoned
ENCN, for the number of host operations served and the address (60_exceptions.md R205;
70_reset_and_hazards.md R231). -/
opaque Config.freeByte : Nat → Nat → Byte

end Sys2Proof
end

