-- ==== Sys2Proof/Machine/State.lean ====
section
/-! DEFINITION. The machine's state as plain data, the host's accesses, the reasons a step can stop,
and the state after reset. -/

namespace Sys2Proof.Machine

/-- The host-visible registers (10_state.md R23). -/
inductive RegName where
  | cmd
  | status
  | key (i : Fin 4)
  | din (i : Fin 4)
  | dout (i : Fin 4)
  | src
  | srcHi
  | dst
  | dstHi
  | nblk
  | rk (i : Fin 32)
deriving DecidableEq, Repr

/-- The codes of STATUS.ERR; the codes 6 to 15 are never produced (60_exceptions.md R201). -/
inductive ErrCode where
  /-- 0: the command succeeded. -/
  | ok
  /-- 1: the command word decodes to no command. -/
  | illegalCmd
  /-- 2: LEN is not 16. -/
  | precondition
  /-- 3: KEY_VALID = 0. -/
  | noKey
  /-- 4: a buffer passes the top of memory, or the buffers overlap without being equal. -/
  | range
  /-- 5: the platform refused a MemRead or MemWrite. -/
  | mem
deriving DecidableEq, Repr

/-- A 32-bit register whose reset value is unspecified. `written` is false from reset until the
first write: until then a read gives a free value (10_state.md R42, R43; logs 2, 3). -/
structure Reg where
  value : Word
  written : Bool
deriving DecidableEq, Repr

/-- What the host, the platform or the reset input does next. Log 1: the host's program, seen from
the engine, is a list of these (30_encoding.md R79). -/
inductive HostOp where
  /-- A register write of `width` bits at a host address (R79 `W`); for a width other than 32 the
  value is not used (10_state.md R33). -/
  | write (addr width : Nat) (value : Word)
  /-- A register read of `width` bits at a host address (R79 `R`). -/
  | read (addr width : Nat)
  /-- The platform operation `M[addr] <- byte` (R79). -/
  | memWrite (addr : Nat) (b : Byte)
  /-- The platform operation `M[addr]` (R79). -/
  | memRead (addr : Nat)
  /-- Reset asserted between commands (70_reset_and_hazards.md R230). -/
  | reset
  /-- A CMD write of this word whose command a reset abandons (70_reset_and_hazards.md R231). -/
  | resetDuring (word : Word)
deriving DecidableEq, Repr

/-- Memory: the listed (address, byte) pairs (20_memory.md R51). -/
abbrev Memory := List Host.Cell

/-- The engine, its platform memory and its host. INVENTORY.md lists each field with its rule. -/
structure State where
  /-- STATUS.KEY_VALID (10_state.md R25). -/
  keyValid : Bool
  /-- STATUS.ANY_ERR (10_state.md R25). -/
  anyErr : Bool
  /-- STATUS.ERR (10_state.md R25). -/
  err : ErrCode
  /-- KEY0..KEY3 (10_state.md R26). -/
  key : Quad Reg
  /-- DIN0..DIN3 (10_state.md R27). -/
  din : Quad Reg
  /-- DOUT0..DOUT3 (10_state.md R28). -/
  dout : Quad Reg
  /-- SRC (10_state.md R29). -/
  src : Reg
  /-- SRC_HI (10_state.md R29); not reachable when ADDR_W = 32. -/
  srcHi : Reg
  /-- DST (10_state.md R29). -/
  dst : Reg
  /-- DST_HI (10_state.md R29); not reachable when ADDR_W = 32. -/
  dstHi : Reg
  /-- NBLK (10_state.md R30). -/
  nblk : Reg
  /-- The round-key file RK[0..31] (10_state.md R35). -/
  rk : Vector Word 32
  /-- The platform memory (20_memory.md R51). -/
  mem : Memory
  /-- The parameters of 00_scope.md R7; no step changes them. -/
  cfg : Config
  /-- The model's own: the host's operations not yet served (log 1). -/
  pending : List HostOp
  /-- The model's own: the values the host's reads returned, newest first (log 19). -/
  results : List Word
  /-- The model's own: the number of host operations served, which indexes the free values (log 3). -/
  tick : Nat
deriving DecidableEq, Repr

/-- Why a step stops in a fault. -/
inductive Fault where
  /-- A register access inside the block that is not an aligned 32-bit one: raised by the register
  port (10_state.md R33; 60_exceptions.md R217). Safe: the engine's state is unchanged and the run
  ends, where the hardware's host may go on (log 17). -/
  | busError
  /-- A host memory operation outside the 2^ADDR_W addresses of the memory space: raised by the
  platform operations (20_memory.md R51). Safe: the run ends (log 11). -/
  | noSuchAddress
deriving DecidableEq, Repr

/-- Why a step is refused. -/
inductive Refusal where
  /-- An instruction that has no meaning yet: raised by exec's arms only. Safe: the run ends. -/
  | notModelled (mnemonic : String)
  /-- A host register access at an address outside the 512 bytes at ENGINE_BASE: raised by the
  register port. It reaches another device, of which the spec says nothing. Safe: the run ends
  (log 9). -/
  | outsideBlock
  /-- An ENCN buffer that touches memory which is not plain memory: raised by ENCN, but not by an
  ENCN that a reset abandons (log 6). "A buffer placed
  on a device whose reads have side effects is outside this spec" (20_memory.md R59;
  93_implementation_defined.md U7 `refuse`). Safe: the run ends (log 10). -/
  | notPlainMemory
deriving DecidableEq, Repr

/-- A register nothing has written since reset: the stored word is DESIGN CHOICE 0 (log 2), and no
read returns it (10_state.md R43). -/
def Reg.unwritten : Reg := ⟨0, false⟩

/-- A register that holds a written value. -/
def Reg.of (v : Word) : Reg := ⟨v, true⟩

/-- Four unwritten registers. -/
def unwrittenQuad : Quad Reg := ⟨.unwritten, .unwritten, .unwritten, .unwritten⟩

/-- The state after reset with a given configuration: every engine register at its value of
10_state.md R42, memory with nothing listed, nothing pending. -/
def State.resetWith (cfg : Config) : State :=
  { keyValid := false
    anyErr := false
    err := .ok
    key := unwrittenQuad
    din := unwrittenQuad
    dout := unwrittenQuad
    src := .unwritten
    srcHi := .unwritten
    dst := .unwritten
    dstHi := .unwritten
    nblk := .unwritten
    rk := Vector.replicate 32 0
    mem := []
    cfg := cfg
    pending := []
    results := []
    tick := 0 }

/-- The machine right after reset (10_state.md R42; 70_reset_and_hazards.md R230). -/
def State.reset : State := State.resetWith Config.initial

end Sys2Proof.Machine
end

