-- ==== Sys2Proof/Machine/Flags.lean ====
section
/-! DEFINITION. The only status bits of the engine: KEY_VALID, ANY_ERR and ERR (10_state.md R25,
R41). No computation of the cipher writes a flag. -/

namespace Sys2Proof.Machine

/-- The 4-bit code of an outcome (60_exceptions.md R201). -/
def ErrCode.code : ErrCode → Nat
  | .ok => 0
  | .illegalCmd => 1
  | .precondition => 2
  | .noKey => 3
  | .range => 4
  | .mem => 5

/-- The STATUS word: KEY_VALID in bit 0, ANY_ERR in bit 1, ERR in bits 7:4, every other bit 0
(10_state.md R25). -/
def State.statusWord (s : State) : Word :=
  BitVec.ofNat 32 (s.keyValid.toNat + 2 * s.anyErr.toNat + 16 * s.err.code)

end Sys2Proof.Machine
end

