-- ==== Sys2Proof/Machine/Ops.lean ====
section
/-! DEFINITION. The named operations: ending a command in success or in an error (the engine's only
exception mechanism), the byte memory in its canonical form, MemRead and MemWrite under MEM_ADMIT,
the register block, and reset. -/

namespace Sys2Proof

/-- ADDR_W in bits (00_scope.md R7). -/
def addrBits : AddrWidth → Nat
  | .w32 => 32
  | .w64 => 64

/-- 2^ADDR_W, the number of addresses of the memory space (20_memory.md R51). -/
def Config.space (cfg : Config) : Nat := 2 ^ addrBits cfg.addrW

/-- MEM_ADMIT(addr, n, kind): some window of that kind holds the whole access (20_memory.md R51;
log 8). -/
def Config.memAdmit (cfg : Config) (addr n : Nat) (kind : AccessKind) : Bool :=
  cfg.windows.any fun w => w.kind == kind && decide (w.lo ≤ addr) && decide (addr + n ≤ w.hi)

/-- Some byte of [lo, hi) is not plain memory (20_memory.md R59; log 10). -/
def Config.touchesDevice (cfg : Config) (lo hi : Nat) : Bool :=
  cfg.device.any fun r => decide (max r.lo lo < min r.hi hi)

end Sys2Proof

namespace Sys2Proof.Machine

/-- The success of a command: ERR is 0 and ANY_ERR stays (60_exceptions.md R206). -/
def State.succeed (s : State) : State := { s with err := .ok }

/-- `raise Error(code)`: ERR gets the code, ANY_ERR is set, "the command ends; nothing else changes"
(60_exceptions.md R203). The engine has no trap entry and no trap return (R209, R210). -/
def State.raiseError (code : ErrCode) (s : State) : State := { s with err := code, anyErr := true }

/-- What an address that memory does not list reads as (DESIGN CHOICE, log 4). -/
def unlistedByte : Byte := 0

/-- The canonical form: addresses strictly rising, no entry equal to an unlisted byte. -/
def Memory.wf : Memory → Bool
  | [] => true
  | [c] => c.2 != unlistedByte
  | c :: d :: m => c.2 != unlistedByte && decide (c.1 < d.1) && Memory.wf (d :: m)

/-- The byte at an address. -/
def Memory.readByte : Memory → Nat → Byte
  | [], _ => unlistedByte
  | c :: m, a => if c.1 = a then c.2 else Memory.readByte m a

/-- A cell in front of a memory of higher addresses; writing the unlisted byte lists nothing. -/
def Memory.consByte (a : Nat) (b : Byte) (m : Memory) : Memory :=
  if b = unlistedByte then m else (a, b) :: m

/-- Set the byte at an address, keeping the canonical form. -/
def Memory.writeByte : Memory → Nat → Byte → Memory
  | [], a, b => Memory.consByte a b []
  | c :: m, a, b =>
    if a < c.1 then Memory.consByte a b (c :: m)
    else if a = c.1 then Memory.consByte a b m
    else c :: Memory.writeByte m a b

/-- The n bytes from an address on, in ascending order (20_memory.md R52). -/
def Memory.readBytes (m : Memory) (a : Nat) : Nat → List Byte
  | 0 => []
  | n + 1 => Memory.readByte m a :: Memory.readBytes m (a + 1) n

/-- Set the bytes from an address on (20_memory.md R53). -/
def Memory.writeBytes (m : Memory) (a : Nat) : List Byte → Memory
  | [] => m
  | b :: bs => Memory.writeBytes (Memory.writeByte m a b) (a + 1) bs

/-- Every listed address is below a bound. -/
def Memory.below (bound : Nat) (m : Memory) : Bool := m.all fun c => decide (c.1 < bound)

/-- `MemRead(addr, n)`: the bytes, or none where the platform refuses (20_memory.md R52). -/
def memRead (cfg : Config) (m : Memory) (addr n : Nat) : Option (List Byte) :=
  if Config.memAdmit cfg addr n .read then some (Memory.readBytes m addr n) else none

/-- `MemWrite(addr, n, v)` with n the length of v: the memory after it, or none where the platform
refuses (20_memory.md R53). -/
def memWrite (cfg : Config) (m : Memory) (addr : Nat) (v : List Byte) : Option Memory :=
  if Config.memAdmit cfg addr v.length .write then some (Memory.writeBytes m addr v) else none

/-- Free bytes for n addresses from a on: "an unspecified value" each (60_exceptions.md R205). -/
def freeBytes (tick a : Nat) : Nat → List Byte
  | 0 => []
  | n + 1 => Config.freeByte tick a :: freeBytes tick (a + 1) n

/-- The state with every byte of [a, a + n) holding an unspecified value (logs 5, 6). -/
def State.scramble (a n : Nat) (s : State) : State :=
  { s with mem := Memory.writeBytes s.mem a (freeBytes s.tick a n) }

/-- Error(MEM) of an ENCN with destination range [dst, dst + n): ERR and ANY_ERR as for any error,
and "every byte of the destination range ... then holds an unspecified value"
(60_exceptions.md R205; log 5). -/
def State.raiseMem (dst n : Nat) (s : State) : State := (s.scramble dst n).raiseError .mem

/-- The offset of a register in the block (10_state.md R23). -/
def RegName.offset : RegName → Nat
  | .cmd => 0x000
  | .status => 0x004
  | .key i => 0x010 + 4 * i.val
  | .din i => 0x020 + 4 * i.val
  | .dout i => 0x030 + 4 * i.val
  | .src => 0x040
  | .srcHi => 0x044
  | .dst => 0x048
  | .dstHi => 0x04C
  | .nblk => 0x050
  | .rk i => 0x100 + 4 * i.val

/-- Every register of the block (10_state.md R23). -/
def RegName.all : List RegName :=
  [.cmd, .status] ++ (List.finRange 4).map .key ++ (List.finRange 4).map .din
    ++ (List.finRange 4).map .dout ++ [.src, .srcHi, .dst, .dstHi, .nblk]
    ++ (List.finRange 32).map .rk

/-- The register at an offset; none at a reserved one (10_state.md R23, R32). -/
def regAt (off : Nat) : Option RegName := RegName.all.find? fun r => r.offset == off

/-- The free value a read of this register gives now if nothing has written it since reset
(10_state.md R43; log 3). -/
def State.draw (s : State) (r : RegName) : Word := Config.freeWord s.tick r.offset

/-- A register's value: what was last written, or a free value (10_state.md R43; log 3). -/
def Reg.read (draw : Word) (r : Reg) : Word := if r.written then r.value else draw

/-- A register that exists only when ADDR_W = 64; when ADDR_W = 32 it reads 0 (10_state.md R29). -/
def readHi (cfg : Config) (draw : Word) (r : Reg) : Word :=
  match cfg.addrW with
  | .w32 => 0
  | .w64 => r.read draw

/-- `reg[NAME]`: what a read of a register gives, for the host and for a command
(00_scope.md R10; 10_state.md R24 to R31). No read has a side effect (R34). -/
def State.readReg (s : State) (r : RegName) : Word :=
  match r with
  | .cmd => 0
  | .status => s.statusWord
  | .key i => (s.key.get i).read (s.draw r)
  | .din i => (s.din.get i).read (s.draw r)
  | .dout i => (s.dout.get i).read (s.draw r)
  | .src => s.src.read (s.draw r)
  | .srcHi => readHi s.cfg (s.draw r) s.srcHi
  | .dst => s.dst.read (s.draw r)
  | .dstHi => readHi s.cfg (s.draw r) s.dstHi
  | .nblk => s.nblk.read (s.draw r)
  | .rk i => if s.keyValid then s.rk[i] else s.draw r

/-- A host write of a register other than CMD: the read-write registers take the value, the
read-only ones ignore it (10_state.md R26 to R31, R34), and so do SRC_HI and DST_HI when
ADDR_W = 32 (R29, R32). -/
def State.writeReg (r : RegName) (v : Word) (s : State) : State :=
  match r with
  | .cmd => s
  | .status => s
  | .key i => { s with key := s.key.set (Reg.of v) i }
  | .din i => { s with din := s.din.set (Reg.of v) i }
  | .dout _ => s
  | .src => { s with src := Reg.of v }
  | .srcHi => match s.cfg.addrW with
    | .w32 => s
    | .w64 => { s with srcHi := Reg.of v }
  | .dst => { s with dst := Reg.of v }
  | .dstHi => match s.cfg.addrW with
    | .w32 => s
    | .w64 => { s with dstHi := Reg.of v }
  | .nblk => { s with nblk := Reg.of v }
  | .rk _ => s

/-- Reset asserted: every piece of engine state takes its value of 10_state.md R42
(70_reset_and_hazards.md R230). The platform memory, the parameters and the host's side are no
engine state and stay. -/
def State.resetEngine (s : State) : State :=
  { State.resetWith s.cfg with
    mem := s.mem, pending := s.pending, results := s.results, tick := s.tick }

end Sys2Proof.Machine
end

