-- ==== Sys2Proof/Machine/Operands.lean ====
section
/-! DEFINITION. The operand forms of the commands: a key or block held in four registers, the
round-key set in either order, an address in a register pair, the block count, and a result block
(30_encoding.md R76). -/

namespace Sys2Proof.Machine

/-- The key words k0..k3 in KEY0..KEY3 (10_state.md R26). -/
def State.keyBlock (s : State) : Block :=
  ⟨s.readReg (.key 0), s.readReg (.key 1), s.readReg (.key 2), s.readReg (.key 3)⟩

/-- The input block in DIN0..DIN3 (10_state.md R27). -/
def State.dinBlock (s : State) : Block :=
  ⟨s.readReg (.din 0), s.readReg (.din 1), s.readReg (.din 2), s.readReg (.din 3)⟩

/-- The round-key set in canonical order RK[0], …, RK[31] (42_scalar_engine.md R142). -/
def State.encKeys (s : State) : List Word := s.rk.toList

/-- An address: `(HI << 32) | LO` when ADDR_W = 64, `LO` when ADDR_W = 32 (10_state.md R29). -/
def address (cfg : Config) (hi lo : Word) : Nat :=
  match cfg.addrW with
  | .w32 => lo.toNat
  | .w64 => hi.toNat * 2 ^ 32 + lo.toNat

/-- src, the source address of ENCN (10_state.md R29). -/
def State.srcAddr (s : State) : Nat := address s.cfg (s.readReg .srcHi) (s.readReg .src)

/-- dst, the destination address of ENCN (10_state.md R29). -/
def State.dstAddr (s : State) : Nat := address s.cfg (s.readReg .dstHi) (s.readReg .dst)

/-- N, the number of blocks of ENCN, unsigned (10_state.md R30). -/
def State.blockCount (s : State) : Nat := (s.readReg .nblk).toNat

/-- Write a result block to DOUT0..DOUT3 (42_scalar_engine.md R144, R145). -/
def State.writeDout (y : Block) (s : State) : State := { s with dout := Quad.map Reg.of y }

end Sys2Proof.Machine
end

