-- ==== Sys2Proof/Machine/Scalar.lean ====
section
/-! DEFINITION. The round function, the scalar engine and the commands ENC and DEC
(42_scalar_engine.md). -/

namespace Sys2Proof.Machine

/-- `Round((x0, x1, x2, x3), rk) = (x1, x2, x3, x0 ^ T(x1 ^ x2 ^ x3 ^ rk))` (42_scalar_engine.md
R140), with T computed directly (40_round_primitives.md R112). -/
def cipherRound (x : Block) (k : Word) : Block :=
  x.shiftIn (x.w0 ^^^ roundT (x.w1 ^^^ x.w2 ^^^ x.w3 ^^^ k))

/-- `Crypt(x; q)`: one round for each round key of q, then the final window in reverse order
(42_scalar_engine.md R141). -/
def crypt (q : List Word) (x : Block) : Block := (q.foldl cipherRound x).reverse

/-- `EncryptBlock(x) = Crypt(x, RK[0], RK[1], …, RK[31])` (42_scalar_engine.md R142). -/
def encryptBlock (rk : List Word) (x : Block) : Block := crypt rk x

/-- `DecryptBlock(x) = Crypt(x, RK[31], RK[30], …, RK[0])` (42_scalar_engine.md R143). -/
def decryptBlock (rk : List Word) (x : Block) : Block := crypt rk.reverse x

/-- ENC: encrypt the block in DIN0..DIN3 into DOUT0..DOUT3 (42_scalar_engine.md R144). -/
def execEnc (len : Nat) (s : State) : Host.Outcome State Fault Refusal :=
  if len ≠ 16 then .next (s.raiseError .precondition)
  else if s.keyValid = false then .next (s.raiseError .noKey)
  else .next (s.writeDout (encryptBlock s.encKeys s.dinBlock)).succeed

/-- DEC: decrypt the block in DIN0..DIN3 into DOUT0..DOUT3; RK is not written
(42_scalar_engine.md R143, R145). -/
def execDec (len : Nat) (s : State) : Host.Outcome State Fault Refusal :=
  if len ≠ 16 then .next (s.raiseError .precondition)
  else if s.keyValid = false then .next (s.raiseError .noKey)
  else .next (s.writeDout (decryptBlock s.encKeys s.dinBlock)).succeed

end Sys2Proof.Machine
end

