-- ==== Sys2Proof/Machine/VectorEngine.lean ====
section
/-! DEFINITION. The vector-parallel 8-block engine as the function VENC8 (43_vector_engine.md), which
ENCN runs once for each group of 8 blocks. -/

namespace Sys2Proof.Machine

/-- Step 2, the transpose: `V_i.lane[j] <- be32(B_j[4i], …, B_j[4i+3])` (43_vector_engine.md R162). -/
def transpose (b : Lanes ByteBlock) : Quad (Lanes Word) :=
  ⟨b.map fun x => be32 x.w0, b.map fun x => be32 x.w1, b.map fun x => be32 x.w2,
    b.map fun x => be32 x.w3⟩

/-- Step 4b, the inverse transpose: `C[j][4i .. 4i+3] <- bytes_be32(W_i.lane[j])`
(43_vector_engine.md R169). -/
def untranspose (w : Quad (Lanes Word)) : Lanes ByteBlock :=
  Lanes.map4 (fun x0 x1 x2 x3 => ⟨bytesBe32 x0, bytesBe32 x1, bytesBe32 x2, bytesBe32 x3⟩)
    w.w0 w.w1 w.w2 w.w3

/-- Index extraction: `I_k.lane[j] = byte_k(A.lane[j])` (43_vector_engine.md R164). -/
def laneIndex (k : Nat) (a : Lanes Word) : Lanes Byte := a.map (byteOf k)

/-- The gathered lookup: `gather(TT, I).lane[j] = TT[I.lane[j]]` (43_vector_engine.md R165). -/
def gatherTT (i : Lanes Byte) : Lanes Word := i.map tt

/-- `VT(A) = G_0 ^ rotr32(G_1, 8) ^ rotr32(G_2, 16) ^ rotr32(G_3, 24)`, lane-wise
(43_vector_engine.md R166). -/
def vectorT (a : Lanes Word) : Lanes Word :=
  (((gatherTT (laneIndex 0 a)).xor ((gatherTT (laneIndex 1 a)).map fun g => rotr32 g 8)).xor
    ((gatherTT (laneIndex 2 a)).map fun g => rotr32 g 16)).xor
      ((gatherTT (laneIndex 3 a)).map fun g => rotr32 g 24)

/-- A vector round: `A <- V1 ^ V2 ^ V3 ^ bcast(RK[r])`, `NEW <- V0 ^ VT(A)`, and the lane-vectors
shift by one (43_vector_engine.md R163, R167). -/
def vectorRound (v : Quad (Lanes Word)) (k : Word) : Quad (Lanes Word) :=
  v.shiftIn (v.w0.xor (vectorT (((v.w1.xor v.w2).xor v.w3).xor (bcast k))))

/-- `VENC8(P[0..7])` in full: load, transpose, one vector round for each round key in canonical
order, final reversal, inverse transpose (43_vector_engine.md R161, R168, R170). -/
def venc8 (rk : List Word) (p : Lanes ByteBlock) : Lanes ByteBlock :=
  untranspose (rk.foldl vectorRound (transpose p)).reverse

end Sys2Proof.Machine
end

