-- ==== Sys2Proof/Machine/Batch.lean ====
section
/-! DEFINITION. Batched encryption of blocks in memory: the command ENCN (44_batch.md). -/

namespace Sys2Proof.Machine

/-- The range rule: some buffer passes the top of the memory space, computed over the unbounded
integers (20_memory.md R61). -/
def passesTop (cfg : Config) (src dst n : Nat) : Bool :=
  decide (src + 16 * n > cfg.space) || decide (dst + 16 * n > cfg.space)

/-- The overlap rule: the buffers share a byte and are not the same (20_memory.md R62). -/
def partlyOverlap (src dst n : Nat) : Bool :=
  src != dst && decide (src < dst + 16 * n) && decide (dst < src + 16 * n)

/-- The number G of whole groups that take the vector path: floor(N/8) when both pointers are
VEC_ALIGN-aligned, else 0 (44_batch.md R182, R185). -/
def groupCount (src dst n : Nat) : Nat :=
  if src % vecAlign = 0 ∧ dst % vecAlign = 0 then n / 8 else 0

/-- Load one 16-byte block (43_vector_engine.md R161; 44_batch.md R184). -/
def loadBlock (cfg : Config) (m : Memory) (a : Nat) : Option ByteBlock :=
  (memRead cfg m a 16).map ByteBlock.ofList

/-- Store one 16-byte block. -/
def storeBlock (cfg : Config) (m : Memory) (a : Nat) (b : ByteBlock) : Option Memory :=
  memWrite cfg m a b.toList

/-- The eight block loads of a group, in ascending order (44_batch.md R183). -/
def loadGroup (cfg : Config) (m : Memory) (a : Nat) : Option (Lanes ByteBlock) := do
  let b0 ← loadBlock cfg m a
  let b1 ← loadBlock cfg m (a + 16)
  let b2 ← loadBlock cfg m (a + 32)
  let b3 ← loadBlock cfg m (a + 48)
  let b4 ← loadBlock cfg m (a + 64)
  let b5 ← loadBlock cfg m (a + 80)
  let b6 ← loadBlock cfg m (a + 96)
  let b7 ← loadBlock cfg m (a + 112)
  return ⟨b0, b1, b2, b3, b4, b5, b6, b7⟩

/-- Stores of consecutive blocks, in ascending order. -/
def storeBlocks (cfg : Config) (m : Memory) (a : Nat) : List ByteBlock → Option Memory
  | [] => some m
  | b :: bs => do
    let m' ← storeBlock cfg m a b
    storeBlocks cfg m' (a + 16) bs

/-- One vector group: eight loads at src + 128g, VENC8, eight stores at dst + 128g
(44_batch.md R183). -/
def runGroup (cfg : Config) (rk : List Word) (src dst g : Nat) (m : Memory) : Option Memory := do
  let p ← loadGroup cfg m (src + 128 * g)
  storeBlocks cfg m (dst + 128 * g) (venc8 rk p).toList

/-- One scalar block: load at src + 16b, EncryptBlock, store at dst + 16b (44_batch.md R184). -/
def runScalar (cfg : Config) (rk : List Word) (src dst b : Nat) (m : Memory) : Option Memory := do
  let x ← loadBlock cfg m (src + 16 * b)
  storeBlock cfg m (dst + 16 * b) (Block.bytes (encryptBlock rk x.words))

/-- `for i in a..a+n-1`: a loop over memory that a refused access ends (20_memory.md R63). -/
def memLoop (body : Nat → Memory → Option Memory) (a : Nat) : Nat → Memory → Option Memory
  | 0, m => some m
  | n + 1, m => do
    let m' ← body a m
    memLoop body (a + 1) n m'

/-- The two loops of ENCN: the groups 0 .. G-1, then the blocks 8G .. N-1; none at the first access
the platform refuses (44_batch.md R180; 20_memory.md R63). -/
def encryptBuffer (cfg : Config) (rk : List Word) (src dst n : Nat) (m : Memory) :
    Option Memory := do
  let m' ← memLoop (runGroup cfg rk src dst) 0 (groupCount src dst n) m
  memLoop (runScalar cfg rk src dst) (8 * groupCount src dst n) (n - 8 * groupCount src dst n) m'

/-- Some buffer touches memory that is not plain memory (20_memory.md R59; log 10). -/
def onDevice (cfg : Config) (src dst n : Nat) : Bool :=
  cfg.touchesDevice src (src + 16 * n) || cfg.touchesDevice dst (dst + 16 * n)

/-- ENCN once its checks have passed and N > 0 (44_batch.md R180). -/
def State.runBatch (src dst n : Nat) (s : State) : State :=
  match encryptBuffer s.cfg s.encKeys src dst n s.mem with
  | some m => { s with mem := m }.succeed
  | none => s.raiseMem dst (16 * n)

/-- ENCN: encrypt NBLK blocks from src to dst (44_batch.md R180, R181). -/
def execEncn (len : Nat) (s : State) : Host.Outcome State Fault Refusal :=
  if len ≠ 16 then .next (s.raiseError .precondition)
  else if s.keyValid = false then .next (s.raiseError .noKey)
  else if s.blockCount = 0 then .next s.succeed
  else if passesTop s.cfg s.srcAddr s.dstAddr s.blockCount then .next (s.raiseError .range)
  else if partlyOverlap s.srcAddr s.dstAddr s.blockCount then .next (s.raiseError .range)
  else if onDevice s.cfg s.srcAddr s.dstAddr s.blockCount then .refused .notPlainMemory
  else .next (s.runBatch s.srcAddr s.dstAddr s.blockCount)

end Sys2Proof.Machine
end

