-- ==== Sys2Proof/Machine/KeySchedule.lean ====
section
/-! DEFINITION. The key schedule and the command KEYSET (41_key_schedule.md). -/

namespace Sys2Proof.Machine

/-- One key-schedule round: `next <- S0 ^ Tp(S1 ^ S2 ^ S3 ^ CK[i])` (41_key_schedule.md R130). -/
def keyRound (s : Block) (c : Word) : Word := s.w0 ^^^ roundTp (s.w1 ^^^ s.w2 ^^^ s.w3 ^^^ c)

/-- The rounds of KeyExpand from a window on, one for each round parameter: the round keys in order
(41_key_schedule.md R130). -/
def expandFrom (s : Block) : List Word → List Word
  | [] => []
  | c :: cs => keyRound s c :: expandFrom (s.shiftIn (keyRound s c)) cs

/-- The initial window: `(k0 ^ FK[0], k1 ^ FK[1], k2 ^ FK[2], k3 ^ FK[3])` (R130). -/
def initialWindow (k : Block) : Block :=
  ⟨k.w0 ^^^ fk.w0, k.w1 ^^^ fk.w1, k.w2 ^^^ fk.w2, k.w3 ^^^ fk.w3⟩

/-- `KeyExpand(k0, k1, k2, k3)`: the 32 round keys (41_key_schedule.md R130). -/
def keyExpand (k : Block) : List Word := expandFrom (initialWindow k) ck

theorem expandFrom_length (cs : List Word) : ∀ s, (expandFrom s cs).length = cs.length := by
  induction cs with
  | nil => intro s; rfl
  | cons c cs ih => intro s; simp [expandFrom, ih]

/-- KeyExpand gives exactly RK_COUNT = 32 words (00_scope.md R6). -/
theorem keyExpand_length (k : Block) : (keyExpand k).length = 32 := by
  rw [keyExpand, expandFrom_length]; rfl

/-- The round-key file KEYSET writes: `for i in 0..31: RK[i] <- rk[i]` (41_key_schedule.md R131). -/
def roundKeyFile (k : Block) : Vector Word 32 := ⟨(keyExpand k).toArray, by simp [keyExpand_length]⟩

/-- A successful KEYSET's writes: RK and KEY_VALID (41_key_schedule.md R131). -/
def State.installKey (s : State) : State :=
  { s with rk := roundKeyFile s.keyBlock, keyValid := true }

/-- KEYSET: construct the cipher instance from the key in KEY0..KEY3 (41_key_schedule.md R131). -/
def execKeyset (len : Nat) (s : State) : Host.Outcome State Fault Refusal :=
  if len ≠ 16 then .next (s.raiseError .precondition)
  else .next s.installKey.succeed

end Sys2Proof.Machine
end

