-- ==== Sys2Proof/Machine/Port.lean ====
section
/-! DEFINITION. The register port and the platform: what each host operation does (10_state.md R21,
R24, R32 to R34; 30_encoding.md R79; 70_reset_and_hazards.md R230, R231). -/

namespace Sys2Proof.Machine

/-- The size of the register block in bytes (10_state.md R23). -/
def blockSize : Nat := 0x200

/-- The offset of a host address in the register block, if it lies there (10_state.md R23). -/
def blockOffset (cfg : Config) (addr : Nat) : Option Nat :=
  if cfg.engineBase ≤ addr ∧ addr < cfg.engineBase + blockSize then some (addr - cfg.engineBase)
  else none

/-- The port's check: "only 32-bit reads and writes at 4-byte-aligned offsets" (10_state.md R33). -/
def portAccepts (off width : Nat) : Bool := width == 32 && off % 4 == 0

/-- A command word written to CMD: the command it encodes, or Error(ILLEGAL_CMD)
(10_state.md R24; 30_encoding.md R74, R75). -/
def runCommand (w : Word) (s : State) : Host.Outcome State Fault Refusal :=
  match decode w with
  | .ok i => exec i s
  | .error _ => .next (s.raiseError .illegalCmd)

/-- An accepted register write: CMD runs a command, a reserved offset ignores the write
(10_state.md R24, R32). -/
def portWrite (off : Nat) (v : Word) (s : State) : Host.Outcome State Fault Refusal :=
  match regAt off with
  | some .cmd => runCommand v s
  | some r => .next (s.writeReg r v)
  | none => .next s

/-- What an accepted register read returns: 0 at a reserved offset (10_state.md R32). -/
def State.portRead (s : State) (off : Nat) : Word :=
  match regAt off with
  | some r => s.readReg r
  | none => 0

/-- The host gets a value (log 19). -/
def State.deliver (v : Word) (s : State) : State := { s with results := v :: s.results }

/-- A host register write (10_state.md R33; 60_exceptions.md R217; log 9). -/
def hostWrite (addr width : Nat) (v : Word) (s : State) : Host.Outcome State Fault Refusal :=
  match blockOffset s.cfg addr with
  | none => .refused .outsideBlock
  | some off => if portAccepts off width then portWrite off v s else .fault .busError

/-- A host register read (10_state.md R33; 60_exceptions.md R217; log 9). -/
def hostRead (addr width : Nat) (s : State) : Host.Outcome State Fault Refusal :=
  match blockOffset s.cfg addr with
  | none => .refused .outsideBlock
  | some off =>
    if portAccepts off width then .next (s.deliver (s.portRead off)) else .fault .busError

/-- `M[addr] <- byte`, a platform operation (30_encoding.md R79; log 11). DESIGN CHOICE (log 11): it
stores the byte, and does nothing else, on memory that is not plain (20_memory.md R59) too. -/
def hostMemWrite (addr : Nat) (b : Byte) (s : State) : Host.Outcome State Fault Refusal :=
  if addr < s.cfg.space then .next { s with mem := Memory.writeByte s.mem addr b }
  else .fault .noSuchAddress

/-- `M[addr]`, a platform operation (30_encoding.md R79; log 11). DESIGN CHOICE (log 11): it delivers
the last byte written, and has no side effect, on memory that is not plain (20_memory.md R59) too. -/
def hostMemRead (addr : Nat) (s : State) : Host.Outcome State Fault Refusal :=
  if addr < s.cfg.space then .next (s.deliver ((Memory.readByte s.mem addr).setWidth 32))
  else .fault .noSuchAddress

/-- The bytes an abandoned command leaves unspecified: an ENCN's destination range, as far as it
lies in the memory space (70_reset_and_hazards.md R231; log 6). DESIGN CHOICE (logs 6, 10): this
holds for buffers on memory that is not plain too; such an ENCN is not refused when a reset abandons
it, where R231 gives the destination an unspecified value and 20_memory.md R59 leaves the result
unspecified. -/
def State.abandon (w : Word) (s : State) : State :=
  match decode w with
  | .ok (.encn _) => s.scramble s.dstAddr (min (16 * s.blockCount) (s.cfg.space - s.dstAddr))
  | _ => s

/-- Reset while the command of a word runs: the command is abandoned and sets no ERR
(70_reset_and_hazards.md R231). -/
def State.resetDuring (w : Word) (s : State) : State := (s.abandon w).resetEngine

/-- Serve one host operation. -/
def serve (op : HostOp) (s : State) : Host.Outcome State Fault Refusal :=
  match op with
  | .write addr width v => hostWrite addr width v s
  | .read addr width => hostRead addr width s
  | .memWrite addr b => hostMemWrite addr b s
  | .memRead addr => hostMemRead addr s
  | .reset => .next s.resetEngine
  | .resetDuring w => .next (s.resetDuring w)

/-- Take the first pending operation off: the rest stays pending, and the count that indexes the free
values advances (logs 1, 3). -/
def State.pop (rest : List HostOp) (s : State) : State :=
  { s with pending := rest, tick := s.tick + 1 }

/-- The host operation that writes a word to CMD (30_encoding.md R79). -/
def cmdWrite (cfg : Config) (w : Word) : HostOp :=
  .write (cfg.engineBase + RegName.cmd.offset) 32 w

end Sys2Proof.Machine
end

