-- ==== Sys2Proof/Machine/Step.lean ====
section
/-! DEFINITION. One step: the first pending host operation, whole (10_state.md R21). The engine has
no program counter and no instruction fetch; commands arrive only as writes to CMD (R22). -/

namespace Sys2Proof.Machine

/-- With nothing pending the engine is idle and nothing changes (70_reset_and_hazards.md R232;
60_exceptions.md R216). -/
def step (s : State) : Host.Outcome State Fault Refusal :=
  match s.pending with
  | [] => .next s
  | op :: rest => serve op (s.pop rest)

/-- The state whose next host operation writes the command word `w` of `nbits` bits to CMD: the
engine fetches nothing, so its next instruction comes from the host (log 1). -/
def State.withFetchWord (s : State) (nbits w : Nat) : State :=
  { s with pending := cmdWrite s.cfg (BitVec.ofNat 32 (w % 2 ^ nbits)) :: s.pending }

end Sys2Proof.Machine
end

