-- ==== Sys2Proof/Machine/Asm.lean ====
section
/-! DEFINITION. The assembler lines and pseudo-instructions of 30_encoding.md R80, R81, as the host
operations they stand for. They are the spec's notation for host programs, not engine state. -/

namespace Sys2Proof.Machine

/-- A line of a host program. `len` of a command line is 16 where the line gives none (R80). -/
inductive AsmLine where
  | wr (r : RegName) (v : Word)
  | rd (r : RegName)
  | keyset (len : Nat := 16)
  | enc (len : Nat := 16)
  | dec (len : Nat := 16)
  | encn (len : Nat := 16)
  | cmd (w : Word)
  | setkey (k0 k1 k2 k3 : Word)
  | encblk (d0 d1 d2 d3 : Word)
  | decblk (d0 d1 d2 d3 : Word)
  | getout
  | batch (s d : Nat) (n : Word)
  | status
deriving DecidableEq, Repr

/-- `wr NAME, v`: W(offset(NAME), v) (R80). -/
def wrOp (cfg : Config) (r : RegName) (v : Word) : HostOp := .write (cfg.engineBase + r.offset) 32 v

/-- `rd NAME`: R(offset(NAME)) (R80). -/
def rdOp (cfg : Config) (r : RegName) : HostOp := .read (cfg.engineBase + r.offset) 32

/-- The two address registers of `batch` (R81). -/
def addressOps (cfg : Config) (lo hi : RegName) (a : Nat) : List HostOp :=
  match cfg.addrW with
  | .w32 => [wrOp cfg lo (BitVec.ofNat 32 a)]
  | .w64 => [wrOp cfg lo (BitVec.ofNat 32 a), wrOp cfg hi (BitVec.ofNat 32 (a / 2 ^ 32))]

/-- The host operations of a line (30_encoding.md R80, R81). -/
def AsmLine.ops (cfg : Config) : AsmLine → List HostOp
  | .wr r v => [wrOp cfg r v]
  | .rd r => [rdOp cfg r]
  | .keyset len => [cmdWrite cfg (encode (.keyset len))]
  | .enc len => [cmdWrite cfg (encode (.enc len))]
  | .dec len => [cmdWrite cfg (encode (.dec len))]
  | .encn len => [cmdWrite cfg (encode (.encn len))]
  | .cmd w => [cmdWrite cfg w]
  | .setkey k0 k1 k2 k3 =>
    [wrOp cfg (.key 0) k0, wrOp cfg (.key 1) k1, wrOp cfg (.key 2) k2, wrOp cfg (.key 3) k3,
      cmdWrite cfg (encode (.keyset 16))]
  | .encblk d0 d1 d2 d3 =>
    [wrOp cfg (.din 0) d0, wrOp cfg (.din 1) d1, wrOp cfg (.din 2) d2, wrOp cfg (.din 3) d3,
      cmdWrite cfg (encode (.enc 16))]
  | .decblk d0 d1 d2 d3 =>
    [wrOp cfg (.din 0) d0, wrOp cfg (.din 1) d1, wrOp cfg (.din 2) d2, wrOp cfg (.din 3) d3,
      cmdWrite cfg (encode (.dec 16))]
  | .getout => [rdOp cfg (.dout 0), rdOp cfg (.dout 1), rdOp cfg (.dout 2), rdOp cfg (.dout 3)]
  | .batch s d n =>
    addressOps cfg .src .srcHi s ++ addressOps cfg .dst .dstHi d ++
      [wrOp cfg .nblk n, cmdWrite cfg (encode (.encn 16))]
  | .status => [rdOp cfg .status]

end Sys2Proof.Machine
end

