-- ==== Sys2Proof/Safety.lean ====
section
/-! DEFINITION. What the claims speak of: the invariant every step keeps, the premise under which a
run had no error, and the conditions under which ENCN completes. -/

namespace Sys2Proof.Machine

/-- What every step keeps: memory is in its canonical form and inside the memory space
(20_memory.md R51), an error code stands only with the sticky bit (60_exceptions.md R203, R207), and
the reserved registers of ADDR_W = 32 hold nothing (10_state.md R29). -/
abbrev State.Inv (s : State) : Prop :=
  Memory.wf s.mem = true ∧ Memory.below s.cfg.space s.mem = true ∧
    (s.err ≠ .ok → s.anyErr = true) ∧
    (s.cfg.addrW = .w32 → s.srcHi = Reg.unwritten ∧ s.dstHi = Reg.unwritten)

/-- "ANY_ERR = 0 at the end": no command since reset failed (60_exceptions.md R207). -/
abbrev State.noErrorSinceReset (s : State) : Prop := s.anyErr = false

/-- An address of a buffer of n blocks at a base. -/
abbrev inBuffer (base n a : Nat) : Prop := base ≤ a ∧ a < base + 16 * n

/-- Block k of a buffer at a base (20_memory.md R54). -/
def blockAt (m : Memory) (base k : Nat) : ByteBlock :=
  ByteBlock.ofList (Memory.readBytes m (base + 16 * k) 16)

/-- The platform admits every block access of an ENCN (20_memory.md R51 to R53). -/
abbrev admitsBuffers (cfg : Config) (src dst n : Nat) : Prop :=
  ∀ k < n, cfg.memAdmit (src + 16 * k) 16 .read = true ∧
    cfg.memAdmit (dst + 16 * k) 16 .write = true

/-- Every byte of both buffers is plain memory (20_memory.md R59). -/
abbrev plainBuffers (cfg : Config) (src dst n : Nat) : Prop :=
  ∀ a, inBuffer src n a ∨ inBuffer dst n a → ∀ r ∈ cfg.device, ¬ (r.lo ≤ a ∧ a < r.hi)

/-- The buffers lie inside the memory space (20_memory.md R61). -/
abbrev fitsSpace (cfg : Config) (src dst n : Nat) : Prop :=
  src + 16 * n ≤ cfg.space ∧ dst + 16 * n ≤ cfg.space

/-- The buffers are the same or share no byte (20_memory.md R62). -/
abbrev sameOrDisjoint (src dst n : Nat) : Prop :=
  src = dst ∨ ∀ a, ¬ (inBuffer src n a ∧ inBuffer dst n a)

/-- The first pending host operation asserts reset. -/
def State.resetPending (s : State) : Prop :=
  ∃ rest, s.pending = .reset :: rest ∨ ∃ w, s.pending = .resetDuring w :: rest

/-- The first pending host operation writes this word to CMD. -/
def State.commandPending (s : State) (w : Word) : Prop :=
  ∃ rest, s.pending = cmdWrite s.cfg w :: rest

end Sys2Proof.Machine
end

