-- ==== Sys2Proof/Certificates/Slice0/Obligations.lean ====
section
/-! DEFINITION. The statements about the model, for the provers. Each cites the rules of spec/ it
formalises; log <n> is notes/assumptions/<n>.md. -/

open Sys2Proof Sys2Proof.Machine

/-! ### Encoding -/

/-- R71, R78, R80: decoding and encoding agree: the words that decode to a command are exactly the
encodings of the well-formed commands, each with one meaning, for every command and every LEN. -/
def Obligations.DecodeAndEncodeAgree : Prop :=
  ∀ (w : Word) (i : Instr), decode w = .ok i ↔ i.wf = true ∧ encode i = w

/-- R78: the decode function, each field taken by shift and mask; the command then checks LEN = 16
first. -/
def Obligations.DecodeFollowsTheFields : Prop :=
  (∀ (w : Word) (i : Instr) (s : State), decode w = .ok i → i.len ≠ 16 →
      runCommand w s = .next { s with err := .precondition, anyErr := true }) ∧
  ∀ w : Word,
    (w >>> 16 ≠ 0 ∨ (w >>> 4) &&& 0xF ≠ 0 → ∀ i, decode w ≠ .ok i) ∧
      (w >>> 16 = 0 → (w >>> 4) &&& 0xF = 0 →
        (w &&& 0xF = 1 → decode w = .ok (.keyset ((w >>> 8) &&& 0xFF).toNat)) ∧
        (w &&& 0xF = 2 → decode w = .ok (.enc ((w >>> 8) &&& 0xFF).toNat)) ∧
        (w &&& 0xF = 3 → decode w = .ok (.dec ((w >>> 8) &&& 0xFF).toNat)) ∧
        (w &&& 0xF = 4 → decode w = .ok (.encn ((w >>> 8) &&& 0xFF).toNat)) ∧
        (w &&& 0xF ≠ 1 → w &&& 0xF ≠ 2 → w &&& 0xF ≠ 3 → w &&& 0xF ≠ 4 → ∀ i, decode w ≠ .ok i))

/-- R77: a word decodes to the command of the row whose match it has under the mask, with its LEN
field; a word that matches no row is ILLEGAL_CMD; the canonical words. -/
def Obligations.DecodeAgreesWithTheOpcodeMap : Prop :=
  (∀ (w : Word) (i : Instr),
      decode w = .ok i ↔ w &&& 0xFFFF00FF = i.matchWord ∧ i.len = ((w >>> 8) &&& 0xFF).toNat) ∧
    (∀ (w : Word) (s : State),
      (∀ i : Instr, w &&& 0xFFFF00FF ≠ i.matchWord) →
        runCommand w s = .next { s with err := .illegalCmd, anyErr := true }) ∧
    encode (.keyset 16) = 0x00001001 ∧ encode (.enc 16) = 0x00001002 ∧
    encode (.dec 16) = 0x00001003 ∧ encode (.encn 16) = 0x00001004

/-- R74: OP 0x0 and 0x5 to 0xF end with ILLEGAL_CMD and no effect but STATUS. -/
def Obligations.IllegalOpcodeSetsOnlyStatus : Prop :=
  ∀ (w : Word) (s : State),
    (w &&& 0xF = 0 ∨ 5 ≤ (w &&& 0xF).toNat) →
      runCommand w s = .next { s with err := .illegalCmd, anyErr := true }

/-- R75: a reserved bit makes any word ILLEGAL_CMD; exactly 1024 words decode to a command, and the
4 of them with LEN = 0x10 pass the precondition check. -/
def Obligations.ReservedBitsAreIllegalAndWordsCounted : Prop :=
  (∀ (w : Word) (s : State), w &&& 0xFFFF00F0 ≠ 0 →
      runCommand w s = .next { s with err := .illegalCmd, anyErr := true }) ∧
    {w : Word | ∃ i, decode w = .ok i}.ncard = 1024 ∧
    {w : Word | ∃ i, decode w = .ok i ∧ i.len = 0x10}.ncard = 4 ∧
    ∀ (w : Word) (i : Instr) (s t : State), decode w = .ok i → runCommand w s = .next t →
      (t.err = .precondition ↔ i.len ≠ 0x10)

/-- R71, R77: words written out bit by bit from the encoding: the four canonical ones, whose LEN is
16, and one each with LEN = 255, 1 and 0. -/
def Obligations.WordsWrittenOutDecode : Prop :=
  decode 0b00000000000000000001000000000001 = .ok (.keyset 16) ∧
    decode 0b00000000000000000001000000000010 = .ok (.enc 16) ∧
    decode 0b00000000000000000001000000000011 = .ok (.dec 16) ∧
    decode 0b00000000000000000001000000000100 = .ok (.encn 16) ∧
    decode 0b00000000000000000000000100000010 = .ok (.enc 1) ∧
    decode 0b00000000000000001111111100000011 = .ok (.dec 255) ∧
    decode 0b00000000000000000000000000000100 = .ok (.encn 0)

/-! ### The step and the register port -/

/-- R21, R24: when the host's next access writes a command word to CMD, the step is that command run
on the state with the access taken off and the count of host operations advanced; a word that is no
command (R74, R75, R203) records ILLEGAL_CMD there and nothing else. -/
def Obligations.StepRunsTheDecodedCommand : Prop :=
  ∀ (s : State) (w : Word) (rest : List HostOp), s.pending = cmdWrite s.cfg w :: rest →
    (∀ i, decode w = .ok i → step s = exec i { s with pending := rest, tick := s.tick + 1 }) ∧
    ((∀ i, decode w ≠ .ok i) →
      step s = .next
        { s with pending := rest, tick := s.tick + 1, err := .illegalCmd, anyErr := true })

/-- R232: with no host access pending the engine does nothing (log 20: an idle step is a step). -/
def Obligations.IdleEngineDoesNothing : Prop :=
  ∀ s : State, s.pending = [] → step s = .next s

/-- R33, R217: an access inside the block of another width or alignment is a bus error, an aligned
32-bit one is not. -/
def Obligations.OnlyAlignedWordAccessesAreAccepted : Prop :=
  ∀ (s : State) (off width : Nat) (v : Word) (rest : List HostOp), off < 0x200 →
    (width ≠ 32 ∨ off % 4 ≠ 0 →
      (s.pending = .write (s.cfg.engineBase + off) width v :: rest →
        step s = .fault .busError) ∧
      (s.pending = .read (s.cfg.engineBase + off) width :: rest → step s = .fault .busError)) ∧
    (width = 32 → off % 4 = 0 →
      (s.pending = .write (s.cfg.engineBase + off) width v :: rest →
        step s ≠ .fault .busError) ∧
      (s.pending = .read (s.cfg.engineBase + off) width :: rest → ∃ t, step s = .next t))

/-- R32: reserved offsets read 0 and ignore writes, SRC_HI and DST_HI among them when ADDR_W = 32. -/
def Obligations.ReservedOffsetsReadZeroAndIgnoreWrites : Prop :=
  ∀ (s : State) (off : Nat) (v : Word) (rest : List HostOp), off % 4 = 0 →
    (off = 0x008 ∨ off = 0x00C ∨ (0x054 ≤ off ∧ off < 0x100) ∨ (0x180 ≤ off ∧ off < 0x200) ∨
      (s.cfg.addrW = .w32 ∧ (off = 0x044 ∨ off = 0x04C))) →
    (s.pending = .write (s.cfg.engineBase + off) 32 v :: rest →
      step s = .next { s with pending := rest, tick := s.tick + 1 }) ∧
    (s.pending = .read (s.cfg.engineBase + off) 32 :: rest →
      step s = .next
        { s with pending := rest, tick := s.tick + 1, results := 0 :: s.results })

/-- R34: writes to STATUS, DOUT0..3 and RK0..31 are ignored, and reading a register delivers its
value and changes nothing. -/
def Obligations.ReadOnlyWritesIgnoredAndReadsHaveNoEffect : Prop :=
  ∀ (s : State) (rest : List HostOp),
    (∀ (r : RegName) (v : Word),
      (r = .status ∨ (∃ i, r = .dout i) ∨ ∃ i, r = .rk i) →
      s.pending = .write (s.cfg.engineBase + r.offset) 32 v :: rest →
        step s = .next { s with pending := rest, tick := s.tick + 1 }) ∧
    (∀ r : RegName, s.pending = .read (s.cfg.engineBase + r.offset) 32 :: rest →
      step s = .next
        { s with
          pending := rest
          tick := s.tick + 1
          results := (s.pop rest).readReg r :: s.results })

/-- R26, R27, R29, R30: a write of a read-write register is read back whole, and no other register
and no byte of memory changes. -/
def Obligations.RegisterWriteReadsBack : Prop :=
  ∀ (s : State) (r : RegName) (v : Word) (rest : List HostOp),
    ((∃ i, r = .key i) ∨ (∃ i, r = .din i) ∨ r = .src ∨ r = .dst ∨ r = .nblk ∨
      (s.cfg.addrW = .w64 ∧ (r = .srcHi ∨ r = .dstHi))) →
    s.pending = .write (s.cfg.engineBase + r.offset) 32 v :: rest →
      ∃ t, step s = .next t ∧ t.readReg r = v ∧
        (∀ r', r' ≠ r → t.readReg r' = (s.pop rest).readReg r') ∧ t.mem = s.mem

/-- R23, R29: SRC, SRC_HI, DST and DST_HI form the addresses src and dst. -/
def Obligations.AddressesAreFormedFromTheRegisterPairs : Prop :=
  ∀ s : State,
    (s.cfg.addrW = .w32 →
      s.srcAddr = (s.readReg .src).toNat ∧ s.dstAddr = (s.readReg .dst).toNat ∧
        s.readReg .srcHi = 0 ∧ s.readReg .dstHi = 0) ∧
    (s.cfg.addrW = .w64 →
      s.srcAddr = (s.readReg .srcHi ++ s.readReg .src).toNat ∧
        s.dstAddr = (s.readReg .dstHi ++ s.readReg .dst).toNat)

/-- R25, R201: STATUS has KEY_VALID in bit 0, ANY_ERR in bit 1, ERR (a code of 0 to 5) in bits 7:4,
and every other bit 0; the code of each outcome. -/
def Obligations.StatusWordHasTheFields : Prop :=
  (ErrCode.ok.code = 0 ∧ ErrCode.illegalCmd.code = 1 ∧ ErrCode.precondition.code = 2 ∧
    ErrCode.noKey.code = 3 ∧ ErrCode.range.code = 4 ∧ ErrCode.mem.code = 5) ∧
  ∀ s : State,
    (s.readReg .status).getLsbD 0 = s.keyValid ∧ (s.readReg .status).getLsbD 1 = s.anyErr ∧
      ((s.readReg .status >>> 4) &&& 0xF).toNat = s.err.code ∧ s.err.code ≤ 5 ∧
      s.readReg .status &&& 0xFFFFFF0C = 0

/-- R31: a read of RK<i> returns RK[i] while a key is valid. R24: a read of CMD returns 0. -/
def Obligations.RoundKeyWindowShowsTheFile : Prop :=
  ∀ s : State, s.readReg .cmd = 0 ∧
    (s.keyValid = true → ∀ i : Fin 32, s.readReg (.rk i) = s.rk[i])

/-- The MODEL's reading of R43 (log 3): a register nothing has written since reset, or a round key
without a valid key, reads as the free value of its offset at the present count of operations;
SRC_HI and DST_HI are such registers when ADDR_W = 64 (R42). -/
def Obligations.UnwrittenRegisterReadsAsFreeValue : Prop :=
  ∀ (cfg : Config) (n : Nat) (i : Fin 4) (j : Fin 32),
    let s := { State.resetWith cfg with tick := n }
    s.readReg (.key i) = Config.freeWord n (0x010 + 4 * i.val) ∧
      s.readReg (.din i) = Config.freeWord n (0x020 + 4 * i.val) ∧
      s.readReg (.dout i) = Config.freeWord n (0x030 + 4 * i.val) ∧
      s.readReg .src = Config.freeWord n 0x040 ∧ s.readReg .dst = Config.freeWord n 0x048 ∧
      s.readReg .nblk = Config.freeWord n 0x050 ∧
      s.readReg (.rk j) = Config.freeWord n (0x100 + 4 * j.val) ∧
      (cfg.addrW = .w64 →
        s.readReg .srcHi = Config.freeWord n 0x044 ∧ s.readReg .dstHi = Config.freeWord n 0x04C)

/-- R234: a KEY register write changes no later ENC, DEC or ENCN: each of them gives, after the
write, what it gives without it, with the KEY register written. -/
def Obligations.KeyWriteActsOnlyAtKeyset : Prop :=
  ∀ (s u : State) (k : Fin 4) (v : Word) (n : Nat) (i : Instr),
    (i = .enc n ∨ i = .dec n ∨ i = .encn n) → exec i s = .next u →
      exec i (s.writeReg (.key k) v) = .next (u.writeReg (.key k) v) ∧
        (s.writeReg (.key k) v).rk = s.rk

/-! ### Round primitives -/

/-- R102: byte j of CK[i] is (4i + j) * 7 mod 256. -/
def Obligations.RoundParametersFollowTheFormula : Prop :=
  ck.length = 32 ∧ ∀ i : Fin 32, ∀ j : Fin 4,
    (byteOf j (ck.getD i 0)).toNat = (4 * i.val + j.val) * 7 % 256

/-- R103: tau substitutes each byte at its position, is a bijection, and the rule's values. -/
def Obligations.TauSubstitutesBytesBijectively : Prop :=
  (∀ (x : Word) (k : Fin 4), byteOf k (tau x) = sbox (byteOf k x)) ∧ Function.Bijective tau ∧
    tau 0x01234567 = 0x90f473a2 ∧ tau 0x00000000 = 0xd6d6d6d6 ∧ tau 0xffffffff = 0x48484848

/-- R108: L and L' distribute over XOR and commute with rotations; tau is not linear. -/
def Obligations.LinearTransformsDistributeAndCommute : Prop :=
  (∀ a b : Word, linL (a ^^^ b) = linL a ^^^ linL b ∧ linLp (a ^^^ b) = linLp a ^^^ linLp b) ∧
    linL 0 = 0 ∧ linLp 0 = 0 ∧
    (∀ (a : Word) (n : Nat), n ≤ 31 →
      linL (rotl32 a n) = rotl32 (linL a) n ∧ linLp (rotl32 a n) = rotl32 (linLp a) n) ∧
    tau 0 = 0xd6d6d6d6

/-- R109: every entry of the table of R111 is L of the substituted byte in the top byte. -/
def Obligations.TableEntriesAreLOfTheTopByte : Prop :=
  (∀ b : Byte, tt b = linL ((sbox b).setWidth 32 <<< 24)) ∧
    tt 0x00 = 0x8ed55b5b ∧ tt 0x01 = 0xd0924242 ∧ tt 0xFF = 0x68492121

/-- R110: four lookups in TT, rotated by whole bytes, give T = L(tau(x)) for all 2^32 inputs. -/
def Obligations.TableFormEqualsT : Prop :=
  ∀ x : Word,
    tTab x =
        tt (byteOf 0 x) ^^^ rotr32 (tt (byteOf 1 x)) 8 ^^^ rotr32 (tt (byteOf 2 x)) 16 ^^^
          rotr32 (tt (byteOf 3 x)) 24 ∧
      tTab x = roundT x ∧ roundT x = linL (tau x)

/-! ### KEYSET -/

/-- R130: the sequence form of KeyExpand. -/
def Obligations.KeyExpandFollowsTheSequence : Prop :=
  ∀ k : Block, ∃ S : Nat → Word,
    S 0 = k.w0 ^^^ 0xa3b1bac6 ∧ S 1 = k.w1 ^^^ 0x56aa3350 ∧ S 2 = k.w2 ^^^ 0x677d9197 ∧
      S 3 = k.w3 ^^^ 0xb27022dc ∧
      (∀ i, i < 32 →
        S (i + 4) = S i ^^^ roundTp (S (i + 1) ^^^ S (i + 2) ^^^ S (i + 3) ^^^ ck.getD i 0)) ∧
      keyExpand k = (List.range 32).map fun i => S (i + 4)

/-- R131: KEYSET with LEN = 16 completes in every state: RK[i] is s_{i+4} of the key schedule from
KEY0..3, KEY_VALID is 1, ERR is 0, and nothing else changes. -/
def Obligations.KeysetInstallsTheRoundKeys : Prop :=
  ∀ s : State, ∃ S : Nat → Word,
    S 0 = s.readReg (.key 0) ^^^ 0xa3b1bac6 ∧ S 1 = s.readReg (.key 1) ^^^ 0x56aa3350 ∧
      S 2 = s.readReg (.key 2) ^^^ 0x677d9197 ∧ S 3 = s.readReg (.key 3) ^^^ 0xb27022dc ∧
      (∀ i, i < 32 →
        S (i + 4) = S i ^^^ roundTp (S (i + 1) ^^^ S (i + 2) ^^^ S (i + 3) ^^^ ck.getD i 0)) ∧
      exec (.keyset 16) s =
        .next
          { s with rk := Vector.ofFn fun i => S (i.val + 4), keyValid := true, err := .ok }

/-- R131, R132, R144, R145; TV1, TV3, TV5: the known-answer key and block. -/
def Obligations.KnownAnswers : Prop :=
  let k : Block := ⟨0x01234567, 0x89abcdef, 0xfedcba98, 0x76543210⟩
  let y : Block := ⟨0x681edf34, 0xd206965e, 0x86b3e94f, 0x536e4246⟩
  (keyExpand k).getD 0 0 = 0xf12186f9 ∧ (keyExpand k).getD 1 0 = 0x41662b61 ∧
    (keyExpand k).getD 31 0 = 0x9124a012 ∧ encryptBlock (keyExpand k) k = y ∧
    decryptBlock (keyExpand k) y = k

/-! ### ENC and DEC -/

/-- R141: the sequence form of Crypt. -/
def Obligations.CryptFollowsTheSequence : Prop :=
  ∀ (q : List Word) (x : Block), q.length = 32 → ∃ X : Nat → Word,
    X 0 = x.w0 ∧ X 1 = x.w1 ∧ X 2 = x.w2 ∧ X 3 = x.w3 ∧
      (∀ r, r < 32 →
        X (r + 4) = X r ^^^ roundT (X (r + 1) ^^^ X (r + 2) ^^^ X (r + 3) ^^^ q.getD r 0)) ∧
      crypt q x = ⟨X 35, X 34, X 33, X 32⟩

/-- R141, R142, R144: with a valid key, ENC with LEN = 16 completes: DOUT holds X_35..X_32 of the
network over DIN with RK[r] in round r, ERR is 0, and nothing else changes. -/
def Obligations.EncWritesTheCiphertext : Prop :=
  ∀ s : State, s.keyValid = true → ∃ X : Nat → Word,
    X 0 = s.readReg (.din 0) ∧ X 1 = s.readReg (.din 1) ∧ X 2 = s.readReg (.din 2) ∧
      X 3 = s.readReg (.din 3) ∧
      (∀ r : Fin 32,
        X (r.val + 4) =
          X r.val ^^^
            roundT (X (r.val + 1) ^^^ X (r.val + 2) ^^^ X (r.val + 3) ^^^ s.rk[r])) ∧
      exec (.enc 16) s =
        .next
          { s with
            dout := ⟨Reg.of (X 35), Reg.of (X 34), Reg.of (X 33), Reg.of (X 32)⟩
            err := .ok }

/-- R141, R143, R145: DEC is the same network with RK[31 - r] in round r; nothing but DOUT and ERR
changes, the round-key file included. -/
def Obligations.DecWritesThePlaintext : Prop :=
  ∀ s : State, s.keyValid = true → ∃ X : Nat → Word,
    X 0 = s.readReg (.din 0) ∧ X 1 = s.readReg (.din 1) ∧ X 2 = s.readReg (.din 2) ∧
      X 3 = s.readReg (.din 3) ∧
      (∀ r : Fin 32,
        X (r.val + 4) =
          X r.val ^^^
            roundT (X (r.val + 1) ^^^ X (r.val + 2) ^^^ X (r.val + 3) ^^^ s.rk[31 - r.val])) ∧
      exec (.dec 16) s =
        .next
          { s with
            dout := ⟨Reg.of (X 35), Reg.of (X 34), Reg.of (X 33), Reg.of (X 32)⟩
            err := .ok }

/-- R146: decryption and encryption under the same round keys undo each other. -/
def Obligations.DecryptAndEncryptAreInverse : Prop :=
  ∀ (rk : List Word) (x : Block),
    decryptBlock rk (encryptBlock rk x) = x ∧ encryptBlock rk (decryptBlock rk x) = x

/-- R146 through the registers: ENC, then DEC with DOUT copied into DIN, leaves the input block in
DOUT. -/
def Obligations.EncThenDecRestoresTheBlock : Prop :=
  ∀ s : State, s.keyValid = true → ∃ t u,
    exec (.enc 16) s = .next t ∧ exec (.dec 16) { t with din := t.dout } = .next u ∧
      ∀ i, u.readReg (.dout i) = s.readReg (.din i)

/-- R147: DOUT depends only on DIN and the round keys, and the round keys only on KEY0..3. -/
def Obligations.ResultsDependOnlyOnOperands : Prop :=
  ∀ s s' : State,
    (s.keyValid = s'.keyValid → s.rk = s'.rk →
      (∀ i, s.readReg (.din i) = s'.readReg (.din i)) →
      ∀ t t', s.keyValid = true →
        (exec (.enc 16) s = .next t → exec (.enc 16) s' = .next t' → t.dout = t'.dout) ∧
        (exec (.dec 16) s = .next t → exec (.dec 16) s' = .next t' → t.dout = t'.dout)) ∧
    ((∀ i, s.readReg (.key i) = s'.readReg (.key i)) →
      ∀ t t', exec (.keyset 16) s = .next t → exec (.keyset 16) s' = .next t' → t.rk = t'.rk)

/-- R76, R131, R144, R145: the frame of KEYSET, ENC and DEC, whatever their outcome: no operand
register and no byte of memory changes; ENC and DEC leave RK and KEY_VALID, KEYSET leaves DOUT. -/
def Obligations.RegisterCommandsFrame : Prop :=
  ∀ (s t : State) (n : Nat) (i : Instr), (i = .keyset n ∨ i = .enc n ∨ i = .dec n) →
    exec i s = .next t →
      t.key = s.key ∧ t.din = s.din ∧ t.src = s.src ∧ t.srcHi = s.srcHi ∧ t.dst = s.dst ∧
        t.dstHi = s.dstHi ∧ t.nblk = s.nblk ∧ t.cfg = s.cfg ∧ t.pending = s.pending ∧
        t.results = s.results ∧ t.tick = s.tick ∧
        (∀ a, Memory.readByte t.mem a = Memory.readByte s.mem a) ∧
        (i ≠ .keyset n → t.rk = s.rk ∧ t.keyValid = s.keyValid) ∧
        (i = .keyset n → t.dout = s.dout)

/-! ### The vector engine -/

/-- R162: the lane-mapping table: lane j of V_i is the big-endian word i of block j. -/
def Obligations.TransposeFollowsTheLaneMapping : Prop :=
  ∀ (b : Lanes ByteBlock) (i : Fin 4) (j : Fin 8),
    ((transpose b).get i).get j = be32 (quadAt (b.get j).toList (4 * i.val))

/-- R171: the transpose and the inverse transpose are exact inverses. -/
def Obligations.TransposeAndUntransposeAreInverse : Prop :=
  (∀ p : Lanes ByteBlock, untranspose (transpose p) = p) ∧
    ∀ v : Quad (Lanes Word), transpose (untranspose v) = v

/-- R166: the vector transform from the four gathered lookups, and every lane of it T_tab, and T, of
that lane. -/
def Obligations.VectorTransformIsTInEveryLane : Prop :=
  ∀ (a : Lanes Word) (j : Fin 8),
    (vectorT a).get j =
        tt (byteOf 0 (a.get j)) ^^^ rotr32 (tt (byteOf 1 (a.get j))) 8 ^^^
          rotr32 (tt (byteOf 2 (a.get j))) 16 ^^^ rotr32 (tt (byteOf 3 (a.get j))) 24 ∧
      (vectorT a).get j = tTab (a.get j) ∧ (vectorT a).get j = roundT (a.get j)

/-- R140, R167: a vector round is the scalar round in every lane. -/
def Obligations.VectorRoundIsTheScalarRoundInEveryLane : Prop :=
  ∀ (v : Quad (Lanes Word)) (k : Word) (j : Fin 8),
    let x := v.map fun u => u.get j
    (vectorRound v k).map (fun u => u.get j) = cipherRound x k ∧
      cipherRound x k = ⟨x.w1, x.w2, x.w3, x.w0 ^^^ roundT (x.w1 ^^^ x.w2 ^^^ x.w3 ^^^ k)⟩

/-- R172: VENC8 gives EncryptBlock of each of its eight blocks. -/
def Obligations.VectorEngineEqualsScalarEngine : Prop :=
  ∀ (rk : List Word) (p : Lanes ByteBlock) (j : Fin 8),
    (venc8 rk p).get j = Block.bytes (encryptBlock rk (p.get j).words)

/-! ### ENCN -/

/-- R181: with NBLK = 0, ENCN succeeds with ERR = 0 and no memory access, after the PRECONDITION and
NO_KEY checks. -/
def Obligations.EncnOfZeroBlocksSucceeds : Prop :=
  ∀ s : State, s.readReg .nblk = 0 →
    (s.keyValid = true → exec (.encn 16) s = .next { s with err := .ok }) ∧
    (s.keyValid = false → exec (.encn 16) s = .next { s with err := .noKey, anyErr := true }) ∧
    ∀ n, n ≠ 16 → exec (.encn n) s = .next { s with err := .precondition, anyErr := true }

/-- R61, R62: a buffer that passes the top of the memory space, or buffers that share a byte and are
not the same, end ENCN with RANGE and no effect but STATUS; otherwise ENCN does not report RANGE. -/
def Obligations.EncnRangeAndOverlapRule : Prop :=
  ∀ s : State, s.keyValid = true → s.blockCount ≠ 0 →
    (¬ fitsSpace s.cfg s.srcAddr s.dstAddr s.blockCount ∨
        ¬ sameOrDisjoint s.srcAddr s.dstAddr s.blockCount →
      exec (.encn 16) s = .next { s with err := .range, anyErr := true }) ∧
    (fitsSpace s.cfg s.srcAddr s.dstAddr s.blockCount →
      sameOrDisjoint s.srcAddr s.dstAddr s.blockCount →
      ∀ t, exec (.encn 16) s = .next t → t.err ≠ .range)

/-- R64: when ENCN ends with ERR = 0, every destination block holds EncryptBlock of its source block
as memory held it when the command began, whether src = dst or not and whatever the path. -/
def Obligations.EncnResultIsTheEncryptionOfTheSource : Prop :=
  ∀ (s t : State) (n : Nat), Memory.wf s.mem = true → exec (.encn n) s = .next t →
    t.err = .ok → ∀ k, k < s.blockCount →
      blockAt t.mem s.dstAddr k =
        Block.bytes (encryptBlock s.rk.toList (blockAt s.mem s.srcAddr k).words)

/-- R180, R186: ENCN with N > 0 completes when the key is valid, the buffers fit, are the same or
disjoint, lie on plain memory and every access is admitted: the destination holds the encryption of
the source, ERR is 0, and no other byte and no register changes. -/
def Obligations.EncnEncryptsTheBuffer : Prop :=
  ∀ s : State, Memory.wf s.mem = true → s.keyValid = true → s.blockCount ≠ 0 →
    fitsSpace s.cfg s.srcAddr s.dstAddr s.blockCount →
    sameOrDisjoint s.srcAddr s.dstAddr s.blockCount →
    plainBuffers s.cfg s.srcAddr s.dstAddr s.blockCount →
    admitsBuffers s.cfg s.srcAddr s.dstAddr s.blockCount →
    ∃ m, exec (.encn 16) s = .next { s with mem := m, err := .ok } ∧
      (∀ k, k < s.blockCount →
        blockAt m s.dstAddr k =
          Block.bytes (encryptBlock s.rk.toList (blockAt s.mem s.srcAddr k).words)) ∧
      ∀ a, ¬ inBuffer s.dstAddr s.blockCount a → Memory.readByte m a = Memory.readByte s.mem a

/-- R186: the path is invisible: the groups and the tail leave every byte as N scalar blocks do. -/
def Obligations.VectorPathIsInvisible : Prop :=
  ∀ (cfg : Config) (rk : List Word) (src dst n : Nat) (m : Memory), Memory.wf m = true →
    sameOrDisjoint src dst n → admitsBuffers cfg src dst n →
    ∃ m1 m2, encryptBuffer cfg rk src dst n m = some m1 ∧
      memLoop (runScalar cfg rk src dst) 0 n m = some m2 ∧
      ∀ a, Memory.readByte m1 a = Memory.readByte m2 a

/-- R205 (log 5: a next state, the destination bytes free): ENCN whose access the platform refuses
ends with ERR = MEM and ANY_ERR = 1; the destination bytes are unspecified, every other byte and
every register but STATUS is unchanged. -/
def Obligations.EncnRefusedAccessIsMemError : Prop :=
  ∀ s : State, Memory.wf s.mem = true → s.keyValid = true → s.blockCount ≠ 0 →
    fitsSpace s.cfg s.srcAddr s.dstAddr s.blockCount →
    sameOrDisjoint s.srcAddr s.dstAddr s.blockCount →
    plainBuffers s.cfg s.srcAddr s.dstAddr s.blockCount →
    ¬ admitsBuffers s.cfg s.srcAddr s.dstAddr s.blockCount →
    ∃ m, exec (.encn 16) s = .next { s with mem := m, err := .mem, anyErr := true } ∧
      (∀ a, ¬ inBuffer s.dstAddr s.blockCount a →
        Memory.readByte m a = Memory.readByte s.mem a) ∧
      ∀ a, inBuffer s.dstAddr s.blockCount a → Memory.readByte m a = Config.freeByte s.tick a

/-- R59 (log 10): ENCN is refused by name where a buffer touches memory that is not plain. -/
def Obligations.EncnOnDeviceMemoryIsRefused : Prop :=
  ∀ s : State, s.keyValid = true → s.blockCount ≠ 0 →
    fitsSpace s.cfg s.srcAddr s.dstAddr s.blockCount →
    sameOrDisjoint s.srcAddr s.dstAddr s.blockCount →
    ¬ plainBuffers s.cfg s.srcAddr s.dstAddr s.blockCount →
    exec (.encn 16) s = .refused .notPlainMemory

/-- R188: ENCN writes no register but STATUS.ERR, and STATUS.ANY_ERR on error, whatever its
outcome. -/
def Obligations.EncnWritesNoRegisterButStatus : Prop :=
  ∀ (s t : State) (n : Nat), exec (.encn n) s = .next t →
    t = { s with mem := t.mem, err := t.err, anyErr := t.anyErr } ∧
      (t.err = .ok → t.anyErr = s.anyErr)

/-- R51: ENCN changes no byte outside its destination range, whatever its outcome, and none at all
unless it starts its accesses. -/
def Obligations.EncnChangesOnlyTheDestination : Prop :=
  ∀ (s t : State) (n : Nat), Memory.wf s.mem = true → exec (.encn n) s = .next t →
    (∀ a, ¬ inBuffer s.dstAddr s.blockCount a →
      Memory.readByte t.mem a = Memory.readByte s.mem a) ∧
    (t.err ≠ .ok → t.err ≠ .mem → t.mem = s.mem)

/-! ### Errors -/

/-- R73: a command with LEN ≠ 16 ends with PRECONDITION and no effect but STATUS. -/
def Obligations.WrongLengthIsRejectedBeforeComputation : Prop :=
  ∀ (i : Instr) (s : State), i.len ≠ 16 →
    exec i s = .next { s with err := .precondition, anyErr := true }

/-- R201, R204: the error a CMD write reports is the first that applies of ILLEGAL_CMD, PRECONDITION,
NO_KEY, RANGE and MEM. -/
def Obligations.FirstApplicableErrorIsReported : Prop :=
  ∀ (w : Word) (s t : State), runCommand w s = .next t →
    ((∀ i, decode w ≠ .ok i) → t.err = .illegalCmd) ∧
    ∀ i, decode w = .ok i →
      (i.len ≠ 16 → t.err = .precondition) ∧
      (i.len = 16 → i ≠ .keyset 16 → s.keyValid = false → t.err = .noKey) ∧
      (i = .keyset 16 → t.err = .ok) ∧
      (i = .enc 16 ∨ i = .dec 16 → s.keyValid = true → t.err = .ok) ∧
      (i = .encn 16 → s.keyValid = true → s.blockCount = 0 → t.err = .ok) ∧
      (i = .encn 16 → s.keyValid = true → s.blockCount ≠ 0 →
        (¬ fitsSpace s.cfg s.srcAddr s.dstAddr s.blockCount ∨
          ¬ sameOrDisjoint s.srcAddr s.dstAddr s.blockCount) → t.err = .range) ∧
      (i = .encn 16 → s.keyValid = true → s.blockCount ≠ 0 →
        fitsSpace s.cfg s.srcAddr s.dstAddr s.blockCount →
        sameOrDisjoint s.srcAddr s.dstAddr s.blockCount →
        (admitsBuffers s.cfg s.srcAddr s.dstAddr s.blockCount → t.err = .ok) ∧
        (¬ admitsBuffers s.cfg s.srcAddr s.dstAddr s.blockCount → t.err = .mem))

/-- R203, R206: ILLEGAL_CMD, PRECONDITION, NO_KEY and RANGE set ERR and ANY_ERR and change nothing
else; success sets ERR to 0 and leaves ANY_ERR; every error sets ANY_ERR. -/
def Obligations.CommandOutcomeIsRecordedInStatus : Prop :=
  ∀ (w : Word) (s t : State), runCommand w s = .next t →
    (t.err ≠ .ok → t.err ≠ .mem → t = { s with err := t.err, anyErr := true }) ∧
      (t.err = .ok → t.anyErr = s.anyErr) ∧ (t.err ≠ .ok → t.anyErr = true)

/-- R207: ANY_ERR is sticky: a command that ends in an error sets it, no step but a reset clears it,
and a reset does. -/
def Obligations.OnlyResetClearsAnyErr : Prop :=
  ∀ s t : State, step s = .next t →
    (s.anyErr = true → (t.anyErr = false ↔ s.resetPending)) ∧
      ∀ w, s.commandPending w → t.err ≠ .ok → t.anyErr = true

/-- R210: the next command after an error runs normally, whatever ERR holds, and with the sticky bit
set it gives what it gives without it. -/
def Obligations.ErrorsDoNotBlockLaterCommands : Prop :=
  ∀ (i : Instr) (s : State) (e : ErrCode),
    exec i { s with err := e } = exec i s ∧
      ∀ t, exec i s = .next t →
        exec i { s with err := e, anyErr := true } = .next { t with anyErr := true }

/-! ### Whole-machine rules -/

/-- Every step keeps the invariant: canonical memory inside the memory space (R51), an error code
only with the sticky bit (R203, R207), nothing in the reserved registers of ADDR_W = 32 (R29). No
step changes a parameter of the engine (R7, R20). -/
def Obligations.StepKeepsTheInvariant : Prop :=
  ∀ s t : State, s.Inv → step s = .next t → t.Inv ∧ t.cfg = s.cfg

/-- The invariant holds after reset, with every configuration. -/
def Obligations.ResetMeetsTheInvariant : Prop := ∀ cfg : Config, (State.resetWith cfg).Inv

/-- R25, R35: the round-key file changes, and KEY_VALID rises, only by a KEYSET with LEN = 16;
KEY_VALID falls only by a reset. -/
def Obligations.OnlyKeysetAndResetChangeTheInstance : Prop :=
  ∀ s t : State, step s = .next t →
    (t.rk ≠ s.rk ∨ t.keyValid ≠ s.keyValid →
      s.resetPending ∨ ∃ w, s.commandPending w ∧ decode w = .ok (.keyset 16)) ∧
    (s.keyValid = true → t.keyValid = false → s.resetPending)

/-- R28, R235: DOUT changes only by an ENC or DEC with LEN = 16 and a valid key, or a reset. -/
def Obligations.OnlyEncDecAndResetChangeDout : Prop :=
  ∀ s t : State, step s = .next t → t.dout ≠ s.dout →
    s.resetPending ∨ ∃ w, s.commandPending w ∧ s.keyValid = true ∧
      (decode w = .ok (.enc 16) ∨ decode w = .ok (.dec 16))

/-- R42: after reset KEY_VALID, ANY_ERR and ERR are 0, STATUS and CMD read 0, and SRC_HI and DST_HI
read 0 when ADDR_W = 32. -/
def Obligations.ResetValues : Prop :=
  ∀ cfg : Config,
    let s := State.resetWith cfg
    s.keyValid = false ∧ s.anyErr = false ∧ s.err = .ok ∧ s.readReg .status = 0 ∧
      s.readReg .cmd = 0 ∧ (cfg.addrW = .w32 → s.readReg .srcHi = 0 ∧ s.readReg .dstHi = 0)

/-- R230: reset puts every register at its reset value, so that no cipher instance exists, and leaves
the platform memory and the parameters. -/
def Obligations.ResetDestroysTheInstance : Prop :=
  ∀ (s : State) (rest : List HostOp), s.pending = .reset :: rest →
    step s = .next
      { State.resetWith s.cfg with
        mem := s.mem, pending := rest, results := s.results, tick := s.tick + 1 }

/-- R231 (log 6: every ENCN word, the range clipped to the memory space): a reset during a command
sets no ERR and leaves the reset values; every destination byte of an ENCN then holds an unspecified
value, and no other byte changes. -/
def Obligations.ResetDuringCommandAbandonsIt : Prop :=
  ∀ (s : State) (w : Word) (rest : List HostOp), Memory.wf s.mem = true →
    s.pending = .resetDuring w :: rest →
    ∃ m, step s = .next
        { State.resetWith s.cfg with
          mem := m, pending := rest, results := s.results, tick := s.tick + 1 } ∧
      (∀ a, ¬ inBuffer (s.pop rest).dstAddr (s.pop rest).blockCount a →
        Memory.readByte m a = Memory.readByte s.mem a) ∧
      ((∀ n, decode w ≠ .ok (.encn n)) → m = s.mem) ∧
      ∀ n, decode w = .ok (.encn n) →
        ∀ a, inBuffer (s.pop rest).dstAddr (s.pop rest).blockCount a → a < s.cfg.space →
          Memory.readByte m a = Config.freeByte (s.tick + 1) a

/-- R51, R79 (log 11, non-plain memory included): the host's byte write sets that byte of the memory space and no other, and its
byte read delivers the byte; outside the space they fault. -/
def Obligations.HostMemoryBytesAreStoredAndRead : Prop :=
  ∀ (s : State) (a : Nat) (b : Byte) (rest : List HostOp), Memory.wf s.mem = true →
    (s.pending = .memWrite a b :: rest →
      (a < s.cfg.space → ∃ t, step s = .next t ∧ Memory.readByte t.mem a = b ∧
        (∀ x, x ≠ a → Memory.readByte t.mem x = Memory.readByte s.mem x) ∧
        ∀ r, t.readReg r = (s.pop rest).readReg r) ∧
      (s.cfg.space ≤ a → step s = .fault .noSuchAddress)) ∧
    (s.pending = .memRead a :: rest →
      (a < s.cfg.space → step s = .next
        { s with
          pending := rest
          tick := s.tick + 1
          results := (Memory.readByte s.mem a).setWidth 32 :: s.results }) ∧
      (s.cfg.space ≤ a → step s = .fault .noSuchAddress))

/-- R144, R145, R180, R203, R204: without a valid key ENC, DEC and ENCN with LEN = 16 end in a next
state with NO_KEY, whatever the operands are (ENCN: whatever N, src, dst and the platform are), and
nothing but STATUS changes. -/
def Obligations.CommandsWithoutKeyEndWithNoKey : Prop :=
  ∀ (s : State) (i : Instr), (i = .enc 16 ∨ i = .dec 16 ∨ i = .encn 16) → s.keyValid = false →
    exec i s = .next { s with err := .noKey, anyErr := true }
end

