-- ==== Sys2Proof/Laws/Memory.lean ====
section
/-! SUPPORT. The byte memory: a read after a write, and that every operation keeps the canonical
form and the memory space. -/

namespace Sys2Proof.Machine

@[simp] theorem Memory.readByte_consByte (a : Nat) (b : Byte) (m : Memory) (x : Nat)
    (h : b = unlistedByte → x = a → Memory.readByte m x = unlistedByte) :
    Memory.readByte (Memory.consByte a b m) x = if x = a then b else Memory.readByte m x := by
  unfold Memory.consByte
  by_cases hb : b = unlistedByte
  · by_cases hx : x = a
    · rw [if_pos hb, if_pos hx, h hb hx, hb]
    · simp [hb, hx]
  · simp only [hb, if_false, Memory.readByte]
    by_cases hx : x = a
    · simp [hx]
    · simp [hx, Ne.symm hx]

/-- The head of a canonical memory lies below every other listed address. -/
theorem Memory.wf_cons {c : Host.Cell} {m : Memory} :
    Memory.wf (c :: m) = true ↔
      c.2 ≠ unlistedByte ∧ (∀ d ∈ m, c.1 < d.1) ∧ Memory.wf m = true := by
  induction m generalizing c with
  | nil => simp [Memory.wf]
  | cons d m ih =>
    have hd := ih (c := d)
    constructor
    · intro h
      simp only [Memory.wf, Bool.and_eq_true, bne_iff_ne, decide_eq_true_eq] at h
      obtain ⟨⟨h1, h2⟩, h3⟩ := h
      refine ⟨h1, ?_, h3⟩
      intro e he
      rcases List.mem_cons.mp he with rfl | he
      · exact h2
      · exact Nat.lt_trans h2 ((hd.mp h3).2.1 e he)
    · rintro ⟨h1, h2, h3⟩
      simp only [Memory.wf, Bool.and_eq_true, bne_iff_ne, decide_eq_true_eq]
      exact ⟨⟨h1, h2 d List.mem_cons_self⟩, h3⟩

/-- An address below every listed one reads as an unlisted byte. -/
theorem Memory.readByte_of_lt {m : Memory} {a : Nat} (h : ∀ d ∈ m, a < d.1) :
    Memory.readByte m a = unlistedByte := by
  induction m with
  | nil => rfl
  | cons c m ih =>
    have hc := h c List.mem_cons_self
    simp only [Memory.readByte, if_neg (Nat.ne_of_gt hc)]
    exact ih fun d hd => h d (List.mem_cons_of_mem _ hd)

theorem Memory.wf_consByte {a : Nat} {b : Byte} {m : Memory} (hm : Memory.wf m = true)
    (h : ∀ d ∈ m, a < d.1) : Memory.wf (Memory.consByte a b m) = true := by
  unfold Memory.consByte
  split
  · exact hm
  · exact Memory.wf_cons.mpr ⟨by assumption, h, hm⟩

theorem Memory.mem_consByte {a : Nat} {b : Byte} {m : Memory} {d : Host.Cell}
    (h : d ∈ Memory.consByte a b m) : d.1 = a ∨ d ∈ m := by
  unfold Memory.consByte at h
  split at h
  · exact .inr h
  · rcases List.mem_cons.mp h with rfl | h
    · exact .inl rfl
    · exact .inr h

/-- A write lists no address but its own and those already listed. -/
theorem Memory.mem_writeByte {m : Memory} {a : Nat} {b : Byte} {d : Host.Cell}
    (h : d ∈ Memory.writeByte m a b) : d.1 = a ∨ d ∈ m := by
  induction m with
  | nil => exact Memory.mem_consByte h
  | cons c m ih =>
    simp only [Memory.writeByte] at h
    split at h
    · exact Memory.mem_consByte h
    · split at h
      · exact (Memory.mem_consByte h).imp_right (List.mem_cons_of_mem _)
      · rcases List.mem_cons.mp h with rfl | h
        · exact .inr List.mem_cons_self
        · exact (ih h).imp_right (List.mem_cons_of_mem _)

/-- A write keeps the canonical form. -/
theorem Memory.wf_writeByte {m : Memory} (a : Nat) (b : Byte) (hm : Memory.wf m = true) :
    Memory.wf (Memory.writeByte m a b) = true := by
  induction m with
  | nil => exact Memory.wf_consByte rfl (by simp)
  | cons c m ih =>
    obtain ⟨h1, h2, h3⟩ := Memory.wf_cons.mp hm
    simp only [Memory.writeByte]
    split
    · rename_i ha
      refine Memory.wf_consByte hm ?_
      intro d hd
      rcases List.mem_cons.mp hd with rfl | hd
      · exact ha
      · exact Nat.lt_trans ha (h2 d hd)
    · split
      · rename_i ha
        exact Memory.wf_consByte h3 (by rw [ha]; exact h2)
      · refine Memory.wf_cons.mpr ⟨h1, ?_, ih h3⟩
        intro d hd
        rcases Memory.mem_writeByte hd with h | h
        · omega
        · exact h2 d h

/-- A read after a write to a canonical memory. -/
theorem Memory.readByte_writeByte {m : Memory} (a : Nat) (b : Byte) (x : Nat)
    (hm : Memory.wf m = true) :
    Memory.readByte (Memory.writeByte m a b) x = if x = a then b else Memory.readByte m x := by
  induction m with
  | nil => exact Memory.readByte_consByte _ _ _ _ fun _ _ => rfl
  | cons c m ih =>
    obtain ⟨h1, h2, h3⟩ := Memory.wf_cons.mp hm
    simp only [Memory.writeByte]
    split
    · rename_i ha
      refine Memory.readByte_consByte _ _ _ _ ?_
      rintro - rfl
      refine Memory.readByte_of_lt fun d hd => ?_
      rcases List.mem_cons.mp hd with rfl | hd
      · exact ha
      · exact Nat.lt_trans ha (h2 d hd)
    · split
      · rename_i ha
        rw [Memory.readByte_consByte]
        · by_cases hx : x = a
          · simp [hx]
          · simp [Memory.readByte, hx, show c.1 ≠ x from fun h => hx (by omega)]
        · rintro - rfl
          exact Memory.readByte_of_lt (by rw [ha]; exact h2)
      · simp only [Memory.readByte, ih h3]
        by_cases hx : c.1 = x
        · have : x ≠ a := by omega
          simp [hx, this]
        · simp [hx]

theorem Memory.wf_writeBytes {m : Memory} (a : Nat) (l : List Byte) (hm : Memory.wf m = true) :
    Memory.wf (Memory.writeBytes m a l) = true := by
  induction l generalizing m a with
  | nil => exact hm
  | cons b l ih => exact ih (a + 1) (Memory.wf_writeByte a b hm)

/-- A read after a write of consecutive bytes to a canonical memory. -/
theorem Memory.readByte_writeBytes {m : Memory} (a : Nat) (l : List Byte) (x : Nat)
    (hm : Memory.wf m = true) :
    Memory.readByte (Memory.writeBytes m a l) x =
      if a ≤ x ∧ x < a + l.length then l.getD (x - a) 0 else Memory.readByte m x := by
  induction l generalizing m a with
  | nil => simp [Memory.writeBytes, show ¬ (a ≤ x ∧ x < a) by omega]
  | cons b l ih =>
    rw [Memory.writeBytes, ih (a + 1) (Memory.wf_writeByte a b hm),
      Memory.readByte_writeByte a b x hm, List.length_cons]
    by_cases hx : x = a
    · subst hx
      rw [if_neg (by omega), if_pos rfl, if_pos (by omega), Nat.sub_self]
      rfl
    · by_cases hin : a + 1 ≤ x ∧ x < a + 1 + l.length
      · rw [if_pos hin, if_pos (by omega), show x - a = (x - (a + 1)) + 1 by omega,
          List.getD_cons_succ]
      · rw [if_neg hin, if_neg hx, if_neg (by omega)]

theorem Memory.below_iff {bound : Nat} {m : Memory} :
    Memory.below bound m = true ↔ ∀ d ∈ m, d.1 < bound := by
  simp [Memory.below]

theorem Memory.below_writeByte {bound : Nat} {m : Memory} {a : Nat} (b : Byte)
    (hm : Memory.below bound m = true) (ha : a < bound) :
    Memory.below bound (Memory.writeByte m a b) = true := by
  rw [Memory.below_iff] at hm ⊢
  intro d hd
  rcases Memory.mem_writeByte hd with h | h
  · omega
  · exact hm d h

theorem Memory.below_writeBytes {bound : Nat} {m : Memory} {a : Nat} (l : List Byte)
    (hm : Memory.below bound m = true) (ha : a + l.length ≤ bound) :
    Memory.below bound (Memory.writeBytes m a l) = true := by
  induction l generalizing m a with
  | nil => exact hm
  | cons b l ih =>
    rw [List.length_cons] at ha
    exact ih (Memory.below_writeByte b hm (by omega)) (by omega)

@[simp] theorem Memory.readBytes_length (m : Memory) (a n : Nat) :
    (Memory.readBytes m a n).length = n := by
  induction n generalizing a with
  | zero => rfl
  | succ n ih => simp [Memory.readBytes, ih]

theorem Memory.readBytes_congr {m m' : Memory} {a n : Nat}
    (h : ∀ x, a ≤ x → x < a + n → Memory.readByte m x = Memory.readByte m' x) :
    Memory.readBytes m a n = Memory.readBytes m' a n := by
  induction n generalizing a with
  | zero => rfl
  | succ n ih =>
    rw [Memory.readBytes, Memory.readBytes, h a (by omega) (by omega),
      ih fun x h1 h2 => h x (by omega) (by omega)]

@[simp] theorem freeBytes_length (t a n : Nat) : (freeBytes t a n).length = n := by
  induction n generalizing a with
  | zero => rfl
  | succ n ih => simp [freeBytes, ih]

theorem freeBytes_getD (t a : Nat) {n k : Nat} (h : k < n) :
    (freeBytes t a n).getD k 0 = Config.freeByte t (a + k) := by
  induction n generalizing a k with
  | zero => omega
  | succ n ih =>
    cases k with
    | zero => rfl
    | succ k =>
      rw [freeBytes, List.getD_cons_succ, ih (a + 1) (by omega), show a + 1 + k = a + (k + 1) by omega]

end Sys2Proof.Machine
end

