-- ==== Sys2Proof/Laws/Words.lean ====
section
/-! SUPPORT. Words as bytes and rotations: be32 and bytes_be32 are inverse, a rotation moves bits,
the lane and part accessors. -/

namespace Sys2Proof

theorem byteOf_getLsbD (k : Nat) (x : Word) (i : Nat) :
    (byteOf k x).getLsbD i = (decide (i < 8) && x.getLsbD (24 - 8 * k + i)) := by
  have : byteOf k x = (x >>> (24 - 8 * k)).setWidth 8 := by
    apply BitVec.eq_of_toNat_eq
    simp [byteOf, Nat.shiftRight_eq_div_pow]
  rw [this]
  simp

/-- `be32` puts byte k at bits 31-8k : 24-8k (00_scope.md R9). -/
theorem be32_bytesBe32 (x : Word) : be32 (bytesBe32 x) = x := by
  apply BitVec.eq_of_getLsbD_eq
  intro i hi
  simp only [be32, bytesBe32, BitVec.getLsbD_or, BitVec.getLsbD_shiftLeft, BitVec.getLsbD_setWidth,
    byteOf_getLsbD]
  interval_cases i <;> simp

theorem bytesBe32_be32 (b : Quad Byte) : bytesBe32 (be32 b) = b := by
  obtain ⟨b0, b1, b2, b3⟩ := b
  simp only [bytesBe32, Quad.mk.injEq]
  refine ⟨?_, ?_, ?_, ?_⟩ <;> apply BitVec.eq_of_getLsbD_eq <;> intro i hi <;>
    rw [byteOf_getLsbD] <;> interval_cases i <;> simp [be32]

theorem words_bytes (x : Block) : ByteBlock.words (Block.bytes x) = x := by
  simp [ByteBlock.words, Block.bytes, Quad.map, be32_bytesBe32]

theorem bytes_words (b : ByteBlock) : Block.bytes (ByteBlock.words b) = b := by
  simp [ByteBlock.words, Block.bytes, Quad.map, bytesBe32_be32]

@[simp] theorem ByteBlock.ofList_toList (b : ByteBlock) : ByteBlock.ofList b.toList = b := rfl

@[simp] theorem ByteBlock.toList_length (b : ByteBlock) : b.toList.length = 16 := rfl

/-- A left rotation moves bit i - n to bit i, cyclically (00_scope.md R9). -/
theorem rotl32_getLsbD (x : Word) {n i : Nat} (hn : n < 32) (hi : i < 32) :
    (rotl32 x n).getLsbD i = x.getLsbD ((i + (32 - n)) % 32) := by
  unfold rotl32
  split
  · rename_i h
    subst h
    rw [show (i + (32 - 0)) % 32 = i by omega]
  · rw [BitVec.getLsbD_or, BitVec.getLsbD_shiftLeft, BitVec.getLsbD_ushiftRight]
    by_cases h : i < n
    · rw [show (i + (32 - n)) % 32 = 32 - n + i by omega]
      simp [h, hi]
    · have h1 : (i + (32 - n)) % 32 = i - n := by omega
      rw [h1, BitVec.getLsbD_of_ge x (32 - n + i) (by omega)]
      simp [h, hi]

@[simp] theorem Quad.get_set {α : Type} (q : Quad α) (v : α) (i j : Fin 4) :
    (q.set v i).get j = if j = i then v else q.get j := by
  fin_cases i <;> fin_cases j <;> rfl

@[simp] theorem Quad.get_map {α β : Type} (f : α → β) (q : Quad α) (i : Fin 4) :
    (q.map f).get i = f (q.get i) := by
  fin_cases i <;> rfl

theorem Quad.ext_get {α : Type} {p q : Quad α} (h : ∀ i, p.get i = q.get i) : p = q := by
  obtain ⟨p0, p1, p2, p3⟩ := p
  obtain ⟨q0, q1, q2, q3⟩ := q
  have h0 := h 0; have h1 := h 1; have h2 := h 2; have h3 := h 3
  simp only [Quad.get] at h0 h1 h2 h3
  simp [h0, h1, h2, h3]

@[simp] theorem Lanes.get_map {α β : Type} (f : α → β) (v : Lanes α) (j : Fin 8) :
    (v.map f).get j = f (v.get j) := by
  fin_cases j <;> rfl

@[simp] theorem Lanes.get_map2 {α β γ : Type} (f : α → β → γ) (u : Lanes α) (v : Lanes β)
    (j : Fin 8) : (Lanes.map2 f u v).get j = f (u.get j) (v.get j) := by
  fin_cases j <;> rfl

@[simp] theorem Lanes.get_map4 {α β : Type} (f : α → α → α → α → β) (u v w x : Lanes α)
    (j : Fin 8) : (Lanes.map4 f u v w x).get j = f (u.get j) (v.get j) (w.get j) (x.get j) := by
  fin_cases j <;> rfl

@[simp] theorem Lanes.get_bcast {α : Type} (a : α) (j : Fin 8) : (bcast a).get j = a := by
  fin_cases j <;> rfl

@[simp] theorem Lanes.get_xor (u v : Lanes Word) (j : Fin 8) :
    (u.xor v).get j = u.get j ^^^ v.get j := Lanes.get_map2 _ _ _ _

theorem Lanes.ext_get {α : Type} {u v : Lanes α} (h : ∀ j, u.get j = v.get j) : u = v := by
  obtain ⟨u0, u1, u2, u3, u4, u5, u6, u7⟩ := u
  obtain ⟨v0, v1, v2, v3, v4, v5, v6, v7⟩ := v
  have h0 := h 0; have h1 := h 1; have h2 := h 2; have h3 := h 3
  have h4 := h 4; have h5 := h 5; have h6 := h 6; have h7 := h 7
  simp only [Lanes.get] at h0 h1 h2 h3 h4 h5 h6 h7
  simp [h0, h1, h2, h3, h4, h5, h6, h7]

end Sys2Proof
end

