-- ==== Sys2Proof/Laws/Touches.lean ====
section
/-! SUPPORT. What each memory operation of ENCN can do: it keeps the canonical form and the memory
space and changes no byte outside the range it writes. -/

namespace Sys2Proof.Machine

/-- The memory `m'` comes from `m` by writes inside [lo, hi). -/
structure Touches (lo hi : Nat) (m m' : Memory) : Prop where
  wf : Memory.wf m = true → Memory.wf m' = true
  below : ∀ bound, hi ≤ bound → Memory.below bound m = true → Memory.below bound m' = true
  frame : Memory.wf m = true → ∀ a, ¬ (lo ≤ a ∧ a < hi) → Memory.readByte m' a = Memory.readByte m a

theorem Touches.refl (lo hi : Nat) (m : Memory) : Touches lo hi m m :=
  ⟨id, fun _ _ => id, fun _ _ _ => rfl⟩

theorem Touches.trans {lo hi : Nat} {m m' m'' : Memory} (h : Touches lo hi m m')
    (h' : Touches lo hi m' m'') : Touches lo hi m m'' :=
  ⟨h'.wf ∘ h.wf, fun b hb hm => h'.below b hb (h.below b hb hm),
    fun hm a ha => (h'.frame (h.wf hm) a ha).trans (h.frame hm a ha)⟩

theorem Touches.mono {lo hi lo' hi' : Nat} {m m' : Memory} (h : Touches lo hi m m')
    (hlo : lo' ≤ lo) (hhi : hi ≤ hi') : Touches lo' hi' m m' :=
  ⟨h.wf, fun b hb => h.below b (by omega), fun hm a ha => h.frame hm a (by omega)⟩

theorem writeBytes_touches (m : Memory) (a : Nat) (l : List Byte) :
    Touches a (a + l.length) m (Memory.writeBytes m a l) where
  wf := Memory.wf_writeBytes a l
  below _ hb hm := Memory.below_writeBytes l hm hb
  frame hm x hx := by rw [Memory.readByte_writeBytes a l x hm, if_neg hx]

/-- A load answers the block at its address, and only if the platform admits it. -/
theorem loadBlock_eq_some {cfg : Config} {m : Memory} {a : Nat} {b : ByteBlock} :
    loadBlock cfg m a = some b ↔
      cfg.memAdmit a 16 .read = true ∧ b = ByteBlock.ofList (Memory.readBytes m a 16) := by
  unfold loadBlock memRead
  cases h : cfg.memAdmit a 16 .read <;> simp [eq_comm]

/-- A store answers the memory with the block's bytes, and only if the platform admits it. -/
theorem storeBlock_eq_some {cfg : Config} {m m' : Memory} {a : Nat} {b : ByteBlock} :
    storeBlock cfg m a b = some m' ↔
      cfg.memAdmit a 16 .write = true ∧ m' = Memory.writeBytes m a b.toList := by
  unfold storeBlock memWrite
  rw [ByteBlock.toList_length]
  cases h : cfg.memAdmit a 16 .write <;> simp [eq_comm]

theorem storeBlock_touches {cfg : Config} {m m' : Memory} {a : Nat} {b : ByteBlock}
    (h : storeBlock cfg m a b = some m') : Touches a (a + 16) m m' := by
  rw [(storeBlock_eq_some.mp h).2]
  exact writeBytes_touches m a b.toList

theorem storeBlocks_touches {cfg : Config} (l : List ByteBlock) :
    ∀ {m m' : Memory} {a : Nat}, storeBlocks cfg m a l = some m' →
      Touches a (a + 16 * l.length) m m' := by
  induction l with
  | nil =>
    intro m m' a h
    cases h
    exact Touches.refl ..
  | cons b l ih =>
    intro m m' a h
    obtain ⟨m1, h1, h2⟩ := Option.bind_eq_some_iff.mp h
    have t1 := storeBlock_touches h1
    have t2 := ih h2
    rw [List.length_cons]
    exact (t1.mono (by omega) (by omega)).trans (t2.mono (by omega) (by omega))

/-- A vector group writes only its own 128 bytes (44_batch.md R183). -/
theorem runGroup_touches {cfg : Config} {rk : List Word} {src dst g : Nat} {m m' : Memory}
    (h : runGroup cfg rk src dst g m = some m') :
    Touches (dst + 128 * g) (dst + 128 * g + 128) m m' := by
  obtain ⟨p, _, h2⟩ := Option.bind_eq_some_iff.mp h
  exact storeBlocks_touches _ h2

/-- A scalar block writes only its own 16 bytes (44_batch.md R184). -/
theorem runScalar_touches {cfg : Config} {rk : List Word} {src dst b : Nat} {m m' : Memory}
    (h : runScalar cfg rk src dst b m = some m') :
    Touches (dst + 16 * b) (dst + 16 * b + 16) m m' := by
  obtain ⟨x, _, h2⟩ := Option.bind_eq_some_iff.mp h
  exact storeBlock_touches h2

/-- A loop of writes inside a range writes inside that range. -/
theorem memLoop_touches {body : Nat → Memory → Option Memory} {lo hi : Nat} (n : Nat) :
    ∀ {a : Nat} {m m' : Memory},
      (∀ i, a ≤ i → i < a + n → ∀ u u', body i u = some u' → Touches lo hi u u') →
      memLoop body a n m = some m' → Touches lo hi m m' := by
  induction n with
  | zero =>
    intro a m m' _ h
    cases h
    exact Touches.refl ..
  | succ n ih =>
    intro a m m' hbody h
    obtain ⟨m1, h1, h2⟩ := Option.bind_eq_some_iff.mp h
    exact (hbody a (by omega) (by omega) m m1 h1).trans
      (ih (fun i hi1 hi2 => hbody i (by omega) (by omega)) h2)

theorem groupCount_le (src dst n : Nat) : 8 * groupCount src dst n ≤ n := by
  unfold groupCount
  split <;> omega

/-- ENCN's loops write only the destination range [dst, dst + 16n) (20_memory.md R51). -/
theorem encryptBuffer_touches {cfg : Config} {rk : List Word} {src dst n : Nat} {m m' : Memory}
    (h : encryptBuffer cfg rk src dst n m = some m') : Touches dst (dst + 16 * n) m m' := by
  obtain ⟨m1, h1, h2⟩ := Option.bind_eq_some_iff.mp h
  have hg := groupCount_le src dst n
  refine (memLoop_touches _ ?_ h1).trans (memLoop_touches _ ?_ h2)
  · intro i _ hi u u' hu
    exact (runGroup_touches hu).mono (by omega) (by omega)
  · intro i _ hi u u' hu
    exact (runScalar_touches hu).mono (by omega) (by omega)

/-- Error(MEM) and an abandoned ENCN write only the range they leave unspecified. -/
theorem scramble_touches (s : State) (a n : Nat) : Touches a (a + n) s.mem (s.scramble a n).mem := by
  have := writeBytes_touches s.mem a (freeBytes s.tick a n)
  rwa [freeBytes_length] at this

/-- Every byte of that range then reads as its free value. -/
theorem readByte_scramble {s : State} {a n x : Nat} (hm : Memory.wf s.mem = true)
    (h : a ≤ x ∧ x < a + n) :
    Memory.readByte (s.scramble a n).mem x = Config.freeByte s.tick x := by
  rw [State.scramble, Memory.readByte_writeBytes _ _ _ hm, freeBytes_length, if_pos h,
    freeBytes_getD _ _ (by omega), Nat.add_sub_cancel' h.1]

end Sys2Proof.Machine
end

