-- ==== Sys2Proof/Laws/Admits.lean ====
section
/-! SUPPORT. When the loops of ENCN reach their end: exactly when the platform admits every block
access, whatever the path and the memory's contents (20_memory.md R52, R53, R63). -/

namespace Sys2Proof.Machine

@[simp] theorem loadBlock_isSome (cfg : Config) (m : Memory) (a : Nat) :
    (loadBlock cfg m a).isSome = cfg.memAdmit a 16 .read := by
  unfold loadBlock memRead
  cases cfg.memAdmit a 16 .read <;> rfl

@[simp] theorem storeBlock_isSome (cfg : Config) (m : Memory) (a : Nat) (b : ByteBlock) :
    (storeBlock cfg m a b).isSome = cfg.memAdmit a 16 .write := by
  unfold storeBlock memWrite
  rw [ByteBlock.toList_length]
  cases cfg.memAdmit a 16 .write <;> rfl

/-- A bind answers when its first part does and its second part does after it. -/
theorem isSome_bind_iff {α β : Type} {x : Option α} {f : α → Option β} {p : Prop}
    (h : ∀ y, (f y).isSome = true ↔ p) : (x >>= f).isSome = true ↔ x.isSome = true ∧ p := by
  cases x with
  | none => simp
  | some y => simpa using h y

theorem loadGroup_isSome (cfg : Config) (m : Memory) (a : Nat) :
    (loadGroup cfg m a).isSome = true ↔ ∀ j < 8, cfg.memAdmit (a + 16 * j) 16 .read = true := by
  have h : (loadGroup cfg m a).isSome = true ↔
      cfg.memAdmit a 16 .read = true ∧ cfg.memAdmit (a + 16) 16 .read = true ∧
      cfg.memAdmit (a + 32) 16 .read = true ∧ cfg.memAdmit (a + 48) 16 .read = true ∧
      cfg.memAdmit (a + 64) 16 .read = true ∧ cfg.memAdmit (a + 80) 16 .read = true ∧
      cfg.memAdmit (a + 96) 16 .read = true ∧ cfg.memAdmit (a + 112) 16 .read = true := by
    unfold loadGroup
    rw [isSome_bind_iff, loadBlock_isSome]
    intro b0
    rw [isSome_bind_iff, loadBlock_isSome]
    intro b1
    rw [isSome_bind_iff, loadBlock_isSome]
    intro b2
    rw [isSome_bind_iff, loadBlock_isSome]
    intro b3
    rw [isSome_bind_iff, loadBlock_isSome]
    intro b4
    rw [isSome_bind_iff, loadBlock_isSome]
    intro b5
    rw [isSome_bind_iff, loadBlock_isSome]
    intro b6
    rw [← loadBlock_isSome cfg m]
    cases loadBlock cfg m (a + 112) <;> simp
  rw [h]
  constructor
  · rintro ⟨h0, h1, h2, h3, h4, h5, h6, h7⟩ j hj
    interval_cases j <;> assumption
  · intro h
    exact ⟨h 0 (by omega), h 1 (by omega), h 2 (by omega), h 3 (by omega), h 4 (by omega),
      h 5 (by omega), h 6 (by omega), h 7 (by omega)⟩

theorem storeBlocks_isSome (cfg : Config) (l : List ByteBlock) : ∀ (m : Memory) (a : Nat),
    (storeBlocks cfg m a l).isSome = true ↔
      ∀ j < l.length, cfg.memAdmit (a + 16 * j) 16 .write = true := by
  induction l with
  | nil => simp [storeBlocks]
  | cons b l ih =>
    intro m a
    rw [storeBlocks, isSome_bind_iff fun m' => ih m' (a + 16), storeBlock_isSome, List.length_cons]
    constructor
    · rintro ⟨h0, h⟩ j hj
      cases j with
      | zero => exact h0
      | succ j => rw [show a + 16 * (j + 1) = a + 16 + 16 * j by omega]; exact h j (by omega)
    · intro h
      refine ⟨h 0 (by omega), fun j hj => ?_⟩
      rw [show a + 16 + 16 * j = a + 16 * (j + 1) by omega]
      exact h (j + 1) (by omega)

theorem runScalar_isSome (cfg : Config) (rk : List Word) (src dst b : Nat) (m : Memory) :
    (runScalar cfg rk src dst b m).isSome = true ↔
      cfg.memAdmit (src + 16 * b) 16 .read = true ∧ cfg.memAdmit (dst + 16 * b) 16 .write = true := by
  unfold runScalar
  rw [isSome_bind_iff, loadBlock_isSome]
  intro x
  rw [storeBlock_isSome]

theorem runGroup_isSome (cfg : Config) (rk : List Word) (src dst g : Nat) (m : Memory) :
    (runGroup cfg rk src dst g m).isSome = true ↔
      ∀ k, 8 * g ≤ k → k < 8 * g + 8 → cfg.memAdmit (src + 16 * k) 16 .read = true ∧
        cfg.memAdmit (dst + 16 * k) 16 .write = true := by
  unfold runGroup
  have hstore : ∀ p, (storeBlocks cfg m (dst + 128 * g) (venc8 rk p).toList).isSome = true ↔
      ∀ j < 8, cfg.memAdmit (dst + 128 * g + 16 * j) 16 .write = true :=
    fun p => storeBlocks_isSome cfg (venc8 rk p).toList m (dst + 128 * g)
  rw [isSome_bind_iff hstore, loadGroup_isSome]
  constructor
  · rintro ⟨h1, h2⟩ k hk hk'
    have a1 := h1 (k - 8 * g) (by omega)
    have a2 := h2 (k - 8 * g) (by omega)
    rw [show src + 128 * g + 16 * (k - 8 * g) = src + 16 * k by omega] at a1
    rw [show dst + 128 * g + 16 * (k - 8 * g) = dst + 16 * k by omega] at a2
    exact ⟨a1, a2⟩
  · intro h
    refine ⟨fun j hj => ?_, fun j hj => ?_⟩
    · rw [show src + 128 * g + 16 * j = src + 16 * (8 * g + j) by omega]
      exact (h _ (by omega) (by omega)).1
    · rw [show dst + 128 * g + 16 * j = dst + 16 * (8 * g + j) by omega]
      exact (h _ (by omega) (by omega)).2

theorem memLoop_isSome {body : Nat → Memory → Option Memory} {p : Nat → Prop}
    (hbody : ∀ i m, (body i m).isSome = true ↔ p i) (n : Nat) : ∀ (a : Nat) (m : Memory),
    (memLoop body a n m).isSome = true ↔ ∀ i, a ≤ i → i < a + n → p i := by
  induction n with
  | zero =>
    intro a m
    simp only [memLoop, Option.isSome_some, true_iff]
    intro i h1 h2
    omega
  | succ n ih =>
    intro a m
    rw [memLoop, isSome_bind_iff fun m' => ih (a + 1) m', hbody]
    constructor
    · rintro ⟨h0, h⟩ i h1 h2
      by_cases e : i = a
      · exact e ▸ h0
      · exact h i (by omega) (by omega)
    · intro h
      exact ⟨h a (by omega) (by omega), fun i h1 h2 => h i (by omega) (by omega)⟩

/-- ENCN's loops end exactly when every access is admitted, whatever the path. -/
theorem encryptBuffer_isSome (cfg : Config) (rk : List Word) (src dst n : Nat) (m : Memory) :
    (encryptBuffer cfg rk src dst n m).isSome = true ↔ admitsBuffers cfg src dst n := by
  unfold encryptBuffer
  have hg := groupCount_le src dst n
  rw [isSome_bind_iff fun m' => memLoop_isSome (fun b m => runScalar_isSome cfg rk src dst b m)
      (n - 8 * groupCount src dst n) (8 * groupCount src dst n) m',
    memLoop_isSome fun g m => runGroup_isSome cfg rk src dst g m]
  constructor
  · rintro ⟨h1, h2⟩ k hk
    by_cases e : k < 8 * groupCount src dst n
    · exact h1 (k / 8) (by omega) (by omega) k (by omega) (by omega)
    · exact h2 k (by omega) (by omega)
  · intro h
    exact ⟨fun g _ hg2 k h1 h2 => h k (by omega), fun k h1 h2 => h k (by omega)⟩

end Sys2Proof.Machine
end

