-- ==== Sys2Proof/Laws/State.lean ====
section
/-! SUPPORT. What each named update of State does to each field, one lemma a field. -/

namespace Sys2Proof.Machine

section
variable (s : State)

@[simp] theorem State.succeed_keyValid : (s.succeed).keyValid = s.keyValid := rfl
@[simp] theorem State.succeed_anyErr : (s.succeed).anyErr = s.anyErr := rfl
@[simp] theorem State.succeed_err : (s.succeed).err = .ok := rfl
@[simp] theorem State.succeed_key : (s.succeed).key = s.key := rfl
@[simp] theorem State.succeed_din : (s.succeed).din = s.din := rfl
@[simp] theorem State.succeed_dout : (s.succeed).dout = s.dout := rfl
@[simp] theorem State.succeed_src : (s.succeed).src = s.src := rfl
@[simp] theorem State.succeed_srcHi : (s.succeed).srcHi = s.srcHi := rfl
@[simp] theorem State.succeed_dst : (s.succeed).dst = s.dst := rfl
@[simp] theorem State.succeed_dstHi : (s.succeed).dstHi = s.dstHi := rfl
@[simp] theorem State.succeed_nblk : (s.succeed).nblk = s.nblk := rfl
@[simp] theorem State.succeed_rk : (s.succeed).rk = s.rk := rfl
@[simp] theorem State.succeed_mem : (s.succeed).mem = s.mem := rfl
@[simp] theorem State.succeed_cfg : (s.succeed).cfg = s.cfg := rfl
@[simp] theorem State.succeed_pending : (s.succeed).pending = s.pending := rfl
@[simp] theorem State.succeed_results : (s.succeed).results = s.results := rfl
@[simp] theorem State.succeed_tick : (s.succeed).tick = s.tick := rfl

end

section
variable (s : State) (c : ErrCode)

@[simp] theorem State.raiseError_keyValid : (s.raiseError c).keyValid = s.keyValid := rfl
@[simp] theorem State.raiseError_anyErr : (s.raiseError c).anyErr = true := rfl
@[simp] theorem State.raiseError_err : (s.raiseError c).err = c := rfl
@[simp] theorem State.raiseError_key : (s.raiseError c).key = s.key := rfl
@[simp] theorem State.raiseError_din : (s.raiseError c).din = s.din := rfl
@[simp] theorem State.raiseError_dout : (s.raiseError c).dout = s.dout := rfl
@[simp] theorem State.raiseError_src : (s.raiseError c).src = s.src := rfl
@[simp] theorem State.raiseError_srcHi : (s.raiseError c).srcHi = s.srcHi := rfl
@[simp] theorem State.raiseError_dst : (s.raiseError c).dst = s.dst := rfl
@[simp] theorem State.raiseError_dstHi : (s.raiseError c).dstHi = s.dstHi := rfl
@[simp] theorem State.raiseError_nblk : (s.raiseError c).nblk = s.nblk := rfl
@[simp] theorem State.raiseError_rk : (s.raiseError c).rk = s.rk := rfl
@[simp] theorem State.raiseError_mem : (s.raiseError c).mem = s.mem := rfl
@[simp] theorem State.raiseError_cfg : (s.raiseError c).cfg = s.cfg := rfl
@[simp] theorem State.raiseError_pending : (s.raiseError c).pending = s.pending := rfl
@[simp] theorem State.raiseError_results : (s.raiseError c).results = s.results := rfl
@[simp] theorem State.raiseError_tick : (s.raiseError c).tick = s.tick := rfl

end

section
variable (s : State)

@[simp] theorem State.installKey_keyValid : (s.installKey).keyValid = true := rfl
@[simp] theorem State.installKey_anyErr : (s.installKey).anyErr = s.anyErr := rfl
@[simp] theorem State.installKey_err : (s.installKey).err = s.err := rfl
@[simp] theorem State.installKey_key : (s.installKey).key = s.key := rfl
@[simp] theorem State.installKey_din : (s.installKey).din = s.din := rfl
@[simp] theorem State.installKey_dout : (s.installKey).dout = s.dout := rfl
@[simp] theorem State.installKey_src : (s.installKey).src = s.src := rfl
@[simp] theorem State.installKey_srcHi : (s.installKey).srcHi = s.srcHi := rfl
@[simp] theorem State.installKey_dst : (s.installKey).dst = s.dst := rfl
@[simp] theorem State.installKey_dstHi : (s.installKey).dstHi = s.dstHi := rfl
@[simp] theorem State.installKey_nblk : (s.installKey).nblk = s.nblk := rfl
@[simp] theorem State.installKey_rk : (s.installKey).rk = roundKeyFile s.keyBlock := rfl
@[simp] theorem State.installKey_mem : (s.installKey).mem = s.mem := rfl
@[simp] theorem State.installKey_cfg : (s.installKey).cfg = s.cfg := rfl
@[simp] theorem State.installKey_pending : (s.installKey).pending = s.pending := rfl
@[simp] theorem State.installKey_results : (s.installKey).results = s.results := rfl
@[simp] theorem State.installKey_tick : (s.installKey).tick = s.tick := rfl

end

section
variable (s : State) (y : Block)

@[simp] theorem State.writeDout_keyValid : (s.writeDout y).keyValid = s.keyValid := rfl
@[simp] theorem State.writeDout_anyErr : (s.writeDout y).anyErr = s.anyErr := rfl
@[simp] theorem State.writeDout_err : (s.writeDout y).err = s.err := rfl
@[simp] theorem State.writeDout_key : (s.writeDout y).key = s.key := rfl
@[simp] theorem State.writeDout_din : (s.writeDout y).din = s.din := rfl
@[simp] theorem State.writeDout_dout : (s.writeDout y).dout = Quad.map Reg.of y := rfl
@[simp] theorem State.writeDout_src : (s.writeDout y).src = s.src := rfl
@[simp] theorem State.writeDout_srcHi : (s.writeDout y).srcHi = s.srcHi := rfl
@[simp] theorem State.writeDout_dst : (s.writeDout y).dst = s.dst := rfl
@[simp] theorem State.writeDout_dstHi : (s.writeDout y).dstHi = s.dstHi := rfl
@[simp] theorem State.writeDout_nblk : (s.writeDout y).nblk = s.nblk := rfl
@[simp] theorem State.writeDout_rk : (s.writeDout y).rk = s.rk := rfl
@[simp] theorem State.writeDout_mem : (s.writeDout y).mem = s.mem := rfl
@[simp] theorem State.writeDout_cfg : (s.writeDout y).cfg = s.cfg := rfl
@[simp] theorem State.writeDout_pending : (s.writeDout y).pending = s.pending := rfl
@[simp] theorem State.writeDout_results : (s.writeDout y).results = s.results := rfl
@[simp] theorem State.writeDout_tick : (s.writeDout y).tick = s.tick := rfl

end

section
variable (s : State) (a n : Nat)

@[simp] theorem State.scramble_keyValid : (s.scramble a n).keyValid = s.keyValid := rfl
@[simp] theorem State.scramble_anyErr : (s.scramble a n).anyErr = s.anyErr := rfl
@[simp] theorem State.scramble_err : (s.scramble a n).err = s.err := rfl
@[simp] theorem State.scramble_key : (s.scramble a n).key = s.key := rfl
@[simp] theorem State.scramble_din : (s.scramble a n).din = s.din := rfl
@[simp] theorem State.scramble_dout : (s.scramble a n).dout = s.dout := rfl
@[simp] theorem State.scramble_src : (s.scramble a n).src = s.src := rfl
@[simp] theorem State.scramble_srcHi : (s.scramble a n).srcHi = s.srcHi := rfl
@[simp] theorem State.scramble_dst : (s.scramble a n).dst = s.dst := rfl
@[simp] theorem State.scramble_dstHi : (s.scramble a n).dstHi = s.dstHi := rfl
@[simp] theorem State.scramble_nblk : (s.scramble a n).nblk = s.nblk := rfl
@[simp] theorem State.scramble_rk : (s.scramble a n).rk = s.rk := rfl
@[simp] theorem State.scramble_mem : (s.scramble a n).mem = Memory.writeBytes s.mem a (freeBytes s.tick a n) := rfl
@[simp] theorem State.scramble_cfg : (s.scramble a n).cfg = s.cfg := rfl
@[simp] theorem State.scramble_pending : (s.scramble a n).pending = s.pending := rfl
@[simp] theorem State.scramble_results : (s.scramble a n).results = s.results := rfl
@[simp] theorem State.scramble_tick : (s.scramble a n).tick = s.tick := rfl

end

section
variable (s : State) (a n : Nat)

@[simp] theorem State.raiseMem_keyValid : (s.raiseMem a n).keyValid = s.keyValid := rfl
@[simp] theorem State.raiseMem_anyErr : (s.raiseMem a n).anyErr = true := rfl
@[simp] theorem State.raiseMem_err : (s.raiseMem a n).err = .mem := rfl
@[simp] theorem State.raiseMem_key : (s.raiseMem a n).key = s.key := rfl
@[simp] theorem State.raiseMem_din : (s.raiseMem a n).din = s.din := rfl
@[simp] theorem State.raiseMem_dout : (s.raiseMem a n).dout = s.dout := rfl
@[simp] theorem State.raiseMem_src : (s.raiseMem a n).src = s.src := rfl
@[simp] theorem State.raiseMem_srcHi : (s.raiseMem a n).srcHi = s.srcHi := rfl
@[simp] theorem State.raiseMem_dst : (s.raiseMem a n).dst = s.dst := rfl
@[simp] theorem State.raiseMem_dstHi : (s.raiseMem a n).dstHi = s.dstHi := rfl
@[simp] theorem State.raiseMem_nblk : (s.raiseMem a n).nblk = s.nblk := rfl
@[simp] theorem State.raiseMem_rk : (s.raiseMem a n).rk = s.rk := rfl
@[simp] theorem State.raiseMem_mem : (s.raiseMem a n).mem = Memory.writeBytes s.mem a (freeBytes s.tick a n) := rfl
@[simp] theorem State.raiseMem_cfg : (s.raiseMem a n).cfg = s.cfg := rfl
@[simp] theorem State.raiseMem_pending : (s.raiseMem a n).pending = s.pending := rfl
@[simp] theorem State.raiseMem_results : (s.raiseMem a n).results = s.results := rfl
@[simp] theorem State.raiseMem_tick : (s.raiseMem a n).tick = s.tick := rfl

end

section
variable (s : State) (rest : List HostOp)

@[simp] theorem State.pop_keyValid : (s.pop rest).keyValid = s.keyValid := rfl
@[simp] theorem State.pop_anyErr : (s.pop rest).anyErr = s.anyErr := rfl
@[simp] theorem State.pop_err : (s.pop rest).err = s.err := rfl
@[simp] theorem State.pop_key : (s.pop rest).key = s.key := rfl
@[simp] theorem State.pop_din : (s.pop rest).din = s.din := rfl
@[simp] theorem State.pop_dout : (s.pop rest).dout = s.dout := rfl
@[simp] theorem State.pop_src : (s.pop rest).src = s.src := rfl
@[simp] theorem State.pop_srcHi : (s.pop rest).srcHi = s.srcHi := rfl
@[simp] theorem State.pop_dst : (s.pop rest).dst = s.dst := rfl
@[simp] theorem State.pop_dstHi : (s.pop rest).dstHi = s.dstHi := rfl
@[simp] theorem State.pop_nblk : (s.pop rest).nblk = s.nblk := rfl
@[simp] theorem State.pop_rk : (s.pop rest).rk = s.rk := rfl
@[simp] theorem State.pop_mem : (s.pop rest).mem = s.mem := rfl
@[simp] theorem State.pop_cfg : (s.pop rest).cfg = s.cfg := rfl
@[simp] theorem State.pop_pending : (s.pop rest).pending = rest := rfl
@[simp] theorem State.pop_results : (s.pop rest).results = s.results := rfl
@[simp] theorem State.pop_tick : (s.pop rest).tick = s.tick + 1 := rfl

end

section
variable (s : State) (v : Word)

@[simp] theorem State.deliver_keyValid : (s.deliver v).keyValid = s.keyValid := rfl
@[simp] theorem State.deliver_anyErr : (s.deliver v).anyErr = s.anyErr := rfl
@[simp] theorem State.deliver_err : (s.deliver v).err = s.err := rfl
@[simp] theorem State.deliver_key : (s.deliver v).key = s.key := rfl
@[simp] theorem State.deliver_din : (s.deliver v).din = s.din := rfl
@[simp] theorem State.deliver_dout : (s.deliver v).dout = s.dout := rfl
@[simp] theorem State.deliver_src : (s.deliver v).src = s.src := rfl
@[simp] theorem State.deliver_srcHi : (s.deliver v).srcHi = s.srcHi := rfl
@[simp] theorem State.deliver_dst : (s.deliver v).dst = s.dst := rfl
@[simp] theorem State.deliver_dstHi : (s.deliver v).dstHi = s.dstHi := rfl
@[simp] theorem State.deliver_nblk : (s.deliver v).nblk = s.nblk := rfl
@[simp] theorem State.deliver_rk : (s.deliver v).rk = s.rk := rfl
@[simp] theorem State.deliver_mem : (s.deliver v).mem = s.mem := rfl
@[simp] theorem State.deliver_cfg : (s.deliver v).cfg = s.cfg := rfl
@[simp] theorem State.deliver_pending : (s.deliver v).pending = s.pending := rfl
@[simp] theorem State.deliver_results : (s.deliver v).results = v :: s.results := rfl
@[simp] theorem State.deliver_tick : (s.deliver v).tick = s.tick := rfl

end

section
variable (s : State)

@[simp] theorem State.resetEngine_keyValid : (s.resetEngine).keyValid = false := rfl
@[simp] theorem State.resetEngine_anyErr : (s.resetEngine).anyErr = false := rfl
@[simp] theorem State.resetEngine_err : (s.resetEngine).err = .ok := rfl
@[simp] theorem State.resetEngine_key : (s.resetEngine).key = unwrittenQuad := rfl
@[simp] theorem State.resetEngine_din : (s.resetEngine).din = unwrittenQuad := rfl
@[simp] theorem State.resetEngine_dout : (s.resetEngine).dout = unwrittenQuad := rfl
@[simp] theorem State.resetEngine_src : (s.resetEngine).src = .unwritten := rfl
@[simp] theorem State.resetEngine_srcHi : (s.resetEngine).srcHi = .unwritten := rfl
@[simp] theorem State.resetEngine_dst : (s.resetEngine).dst = .unwritten := rfl
@[simp] theorem State.resetEngine_dstHi : (s.resetEngine).dstHi = .unwritten := rfl
@[simp] theorem State.resetEngine_nblk : (s.resetEngine).nblk = .unwritten := rfl
@[simp] theorem State.resetEngine_rk : (s.resetEngine).rk = Vector.replicate 32 0 := rfl
@[simp] theorem State.resetEngine_mem : (s.resetEngine).mem = s.mem := rfl
@[simp] theorem State.resetEngine_cfg : (s.resetEngine).cfg = s.cfg := rfl
@[simp] theorem State.resetEngine_pending : (s.resetEngine).pending = s.pending := rfl
@[simp] theorem State.resetEngine_results : (s.resetEngine).results = s.results := rfl
@[simp] theorem State.resetEngine_tick : (s.resetEngine).tick = s.tick := rfl

end

section
variable (r : RegName) (v : Word) (s : State)

@[simp] theorem State.writeReg_keyValid : (s.writeReg r v).keyValid = s.keyValid := by
  cases r <;> simp only [State.writeReg] <;> split <;> rfl

@[simp] theorem State.writeReg_anyErr : (s.writeReg r v).anyErr = s.anyErr := by
  cases r <;> simp only [State.writeReg] <;> split <;> rfl

@[simp] theorem State.writeReg_err : (s.writeReg r v).err = s.err := by
  cases r <;> simp only [State.writeReg] <;> split <;> rfl

@[simp] theorem State.writeReg_dout : (s.writeReg r v).dout = s.dout := by
  cases r <;> simp only [State.writeReg] <;> split <;> rfl

@[simp] theorem State.writeReg_rk : (s.writeReg r v).rk = s.rk := by
  cases r <;> simp only [State.writeReg] <;> split <;> rfl

@[simp] theorem State.writeReg_mem : (s.writeReg r v).mem = s.mem := by
  cases r <;> simp only [State.writeReg] <;> split <;> rfl

@[simp] theorem State.writeReg_cfg : (s.writeReg r v).cfg = s.cfg := by
  cases r <;> simp only [State.writeReg] <;> split <;> rfl

@[simp] theorem State.writeReg_pending : (s.writeReg r v).pending = s.pending := by
  cases r <;> simp only [State.writeReg] <;> split <;> rfl

@[simp] theorem State.writeReg_results : (s.writeReg r v).results = s.results := by
  cases r <;> simp only [State.writeReg] <;> split <;> rfl

@[simp] theorem State.writeReg_tick : (s.writeReg r v).tick = s.tick := by
  cases r <;> simp only [State.writeReg] <;> split <;> rfl

end

end Sys2Proof.Machine
end

