-- ==== Sys2Proof/Laws/Exec.lean ====
section
/-! SUPPORT. What each shared operation above the memory can answer, said once: the commands, the
register port, the host operations, the step. -/

namespace Sys2Proof.Machine

@[simp] theorem regAt_offset (r : RegName) : regAt r.offset = some r := by
  cases r with
  | key i => fin_cases i <;> rfl
  | din i => fin_cases i <;> rfl
  | dout i => fin_cases i <;> rfl
  | rk i => fin_cases i <;> rfl
  | _ => rfl

/-- A register's offset is a multiple of 4 inside the block (10_state.md R23). -/
theorem offset_in_block (r : RegName) : r.offset % 4 = 0 ∧ r.offset < blockSize := by
  cases r <;> refine ⟨?_, ?_⟩ <;> simp only [RegName.offset, blockSize] <;> omega

/-- The register found at an offset has that offset. -/
theorem offset_of_regAt {off : Nat} {r : RegName} (h : regAt off = some r) : r.offset = off := by
  simpa using List.find?_some h

/-- At an offset without a register none is found (10_state.md R32). -/
theorem regAt_eq_none {off : Nat} : regAt off = none ↔ ∀ r : RegName, r.offset ≠ off := by
  constructor
  · rintro h r rfl
    simp at h
  · intro h
    exact List.find?_eq_none.mpr fun r _ => by simpa using h r

theorem blockOffset_base (cfg : Config) {off : Nat} (h : off < blockSize) :
    blockOffset cfg (cfg.engineBase + off) = some off := by
  simp [blockOffset, h]

/-- KEYSET answers a next state: an error, or the key installed (41_key_schedule.md R131). -/
theorem execKeyset_eq (len : Nat) (s : State) :
    (len ≠ 16 ∧ execKeyset len s = .next (s.raiseError .precondition)) ∨
      (len = 16 ∧ execKeyset len s = .next s.installKey.succeed) := by
  unfold execKeyset
  by_cases h : len = 16 <;> simp [h]

/-- ENC answers a next state: an error, or the result in DOUT (42_scalar_engine.md R144). -/
theorem execEnc_eq (len : Nat) (s : State) :
    (len ≠ 16 ∧ execEnc len s = .next (s.raiseError .precondition)) ∨
      (len = 16 ∧ s.keyValid = false ∧ execEnc len s = .next (s.raiseError .noKey)) ∨
      (len = 16 ∧ s.keyValid = true ∧
        execEnc len s = .next (s.writeDout (encryptBlock s.encKeys s.dinBlock)).succeed) := by
  unfold execEnc
  by_cases h : len = 16 <;> cases hk : s.keyValid <;> simp [h]

/-- DEC answers a next state: an error, or the result in DOUT (42_scalar_engine.md R145). -/
theorem execDec_eq (len : Nat) (s : State) :
    (len ≠ 16 ∧ execDec len s = .next (s.raiseError .precondition)) ∨
      (len = 16 ∧ s.keyValid = false ∧ execDec len s = .next (s.raiseError .noKey)) ∨
      (len = 16 ∧ s.keyValid = true ∧
        execDec len s = .next (s.writeDout (decryptBlock s.encKeys s.dinBlock)).succeed) := by
  unfold execDec
  by_cases h : len = 16 <;> cases hk : s.keyValid <;> simp [h]

/-- What ENCN answers in a next state (44_batch.md R180, R181; 60_exceptions.md R203, R205). -/
theorem execEncn_next {len : Nat} {s t : State} (h : execEncn len s = .next t) :
    (len ≠ 16 ∧ t = s.raiseError .precondition) ∨
      (len = 16 ∧ s.keyValid = false ∧ t = s.raiseError .noKey) ∨
      (len = 16 ∧ s.keyValid = true ∧ s.blockCount = 0 ∧ t = s.succeed) ∨
      (len = 16 ∧ s.keyValid = true ∧ s.blockCount ≠ 0 ∧
        (passesTop s.cfg s.srcAddr s.dstAddr s.blockCount = true ∨
          partlyOverlap s.srcAddr s.dstAddr s.blockCount = true) ∧ t = s.raiseError .range) ∨
      (len = 16 ∧ s.keyValid = true ∧ s.blockCount ≠ 0 ∧
        passesTop s.cfg s.srcAddr s.dstAddr s.blockCount = false ∧
        partlyOverlap s.srcAddr s.dstAddr s.blockCount = false ∧
        onDevice s.cfg s.srcAddr s.dstAddr s.blockCount = false ∧
        t = s.runBatch s.srcAddr s.dstAddr s.blockCount) := by
  unfold execEncn at h
  repeat' split at h
  all_goals first
    | (cases h; done)
    | (cases h; simp_all)

/-- ENCN past its checks: the loops' memory and success, or Error(MEM) (44_batch.md R180). -/
theorem runBatch_eq (src dst n : Nat) (s : State) :
    (∃ m, encryptBuffer s.cfg s.encKeys src dst n s.mem = some m ∧
        s.runBatch src dst n = { s with mem := m, err := .ok }) ∨
      (encryptBuffer s.cfg s.encKeys src dst n s.mem = none ∧
        s.runBatch src dst n = s.raiseMem dst (16 * n)) := by
  unfold State.runBatch
  split
  · exact .inl ⟨_, by assumption, rfl⟩
  · exact .inr ⟨by assumption, rfl⟩

theorem runBatch_touches (src dst n : Nat) (s : State) :
    Touches dst (dst + 16 * n) s.mem (s.runBatch src dst n).mem := by
  rcases runBatch_eq src dst n s with ⟨m, h, e⟩ | ⟨_, e⟩
  · rw [e]
    exact encryptBuffer_touches h
  · rw [e]
    exact scramble_touches s dst (16 * n)

/-- The destination range passes the top of memory for no batch that runs (20_memory.md R61). -/
theorem passesTop_eq_false {cfg : Config} {src dst n : Nat} :
    passesTop cfg src dst n = false ↔ src + 16 * n ≤ cfg.space ∧ dst + 16 * n ≤ cfg.space := by
  simp [passesTop]

/-- A CMD write of a word that decodes to a command runs that command. -/
theorem runCommand_ok {w : Word} {i : Instr} (h : decode w = .ok i) (s : State) :
    runCommand w s = exec i s := by
  simp [runCommand, h]

/-- A CMD write of any other word is Error(ILLEGAL_CMD) (30_encoding.md R74, R75). -/
theorem runCommand_error {w : Word} {e : Reject} (h : decode w = .error e) (s : State) :
    runCommand w s = .next (s.raiseError .illegalCmd) := by
  simp [runCommand, h]

/-- An accepted write answers a command's outcome, a register write, or no change
(10_state.md R24, R32). -/
theorem portWrite_cases (off : Nat) (v : Word) (s : State) :
    (regAt off = some .cmd ∧ portWrite off v s = runCommand v s) ∨
      (∃ r, r ≠ .cmd ∧ regAt off = some r ∧ portWrite off v s = .next (s.writeReg r v)) ∨
      (regAt off = none ∧ portWrite off v s = .next s) := by
  unfold portWrite
  cases h : regAt off with
  | none => exact .inr (.inr ⟨rfl, rfl⟩)
  | some r =>
    by_cases hr : r = .cmd
    · subst hr
      exact .inl ⟨rfl, rfl⟩
    · refine .inr (.inl ⟨r, hr, rfl, ?_⟩)
      cases r <;> simp_all

/-- Everything a step that answers a next state can have done, besides popping the operation. -/
theorem serve_next {op : HostOp} {s t : State} (h : serve op s = .next t) :
    (∃ a v, op = .write a 32 v ∧ blockOffset s.cfg a = some 0 ∧ runCommand v s = .next t) ∨
      (∃ a v r, op = .write a 32 v ∧ r ≠ .cmd ∧ blockOffset s.cfg a = some r.offset ∧
        t = s.writeReg r v) ∨
      (∃ a v off, op = .write a 32 v ∧ blockOffset s.cfg a = some off ∧ regAt off = none ∧ t = s) ∨
      (∃ a off, op = .read a 32 ∧ blockOffset s.cfg a = some off ∧
        t = s.deliver (s.portRead off)) ∨
      (∃ a b, op = .memWrite a b ∧ a < s.cfg.space ∧
        t = { s with mem := Memory.writeByte s.mem a b }) ∨
      (∃ a, op = .memRead a ∧ a < s.cfg.space ∧
        t = s.deliver ((Memory.readByte s.mem a).setWidth 32)) ∨
      (op = .reset ∧ t = s.resetEngine) ∨
      (∃ w, op = .resetDuring w ∧ t = s.resetDuring w) := by
  cases op with
  | write a width v =>
    simp only [serve, hostWrite] at h
    split at h
    · cases h
    · rename_i off ho
      split at h
      · rename_i hp
        obtain ⟨rfl, h4⟩ : width = 32 ∧ off % 4 = 0 := by simpa [portAccepts] using hp
        rcases portWrite_cases off v s with ⟨hr, e⟩ | ⟨r, hr, hreg, e⟩ | ⟨hr, e⟩
        · have h0 : off = 0 := (offset_of_regAt hr).symm
          subst h0
          exact .inl ⟨a, v, rfl, ho, e ▸ h⟩
        · rw [e] at h
          cases h
          exact .inr (.inl ⟨a, v, r, rfl, hr, by rw [offset_of_regAt hreg]; exact ho, rfl⟩)
        · rw [e] at h
          cases h
          exact .inr (.inr (.inl ⟨a, v, off, rfl, ho, hr, rfl⟩))
      · cases h
  | read a width =>
    simp only [serve, hostRead] at h
    split at h
    · cases h
    · rename_i off ho
      split at h
      · rename_i hp
        obtain ⟨rfl, h4⟩ : width = 32 ∧ off % 4 = 0 := by simpa [portAccepts] using hp
        cases h
        exact .inr (.inr (.inr (.inl ⟨a, off, rfl, ho, rfl⟩)))
      · cases h
  | memWrite a b =>
    simp only [serve, hostMemWrite] at h
    split at h
    · cases h
      exact .inr (.inr (.inr (.inr (.inl ⟨a, b, rfl, by assumption, rfl⟩))))
    · cases h
  | memRead a =>
    simp only [serve, hostMemRead] at h
    split at h
    · cases h
      exact .inr (.inr (.inr (.inr (.inr (.inl ⟨a, rfl, by assumption, rfl⟩)))))
    · cases h
  | reset =>
    cases h
    exact .inr (.inr (.inr (.inr (.inr (.inr (.inl ⟨rfl, rfl⟩))))))
  | resetDuring w =>
    cases h
    exact .inr (.inr (.inr (.inr (.inr (.inr (.inr ⟨w, rfl, rfl⟩))))))

/-- A step is idle or serves the first pending operation. -/
theorem step_cons {s : State} {op : HostOp} {rest : List HostOp} (h : s.pending = op :: rest) :
    step s = serve op (s.pop rest) := by
  simp [step, h]

theorem step_nil {s : State} (h : s.pending = []) : step s = .next s := by
  simp [step, h]

end Sys2Proof.Machine
end

