-- ==== Sys2Proof/Laws/PerInstr.lean ====
section
/-! SUPPORT. Statements about every instruction as syntax, one lemma for each constructor. -/

namespace Sys2Proof.Laws.EncodesInTable

/-- A well-formed command's word matches its row of the opcode map and no reserved bit of it is set
(30_encoding.md R71, R77). -/
def Statement (i : Instr) : Prop :=
  i.wf = true → encode i &&& rowMask = i.matchWord ∧ encode i < 0x10000

theorem keyset (len : Nat) : Statement (.keyset len) := by
  intro h
  have h' : len < 256 := Nat.lt_succ_of_le (of_decide_eq_true h)
  refine (?_ : ∀ n < 256, encode (.keyset n) &&& rowMask = 1 ∧ encode (.keyset n) < 0x10000) len h'
  decide +kernel

theorem enc (len : Nat) : Statement (.enc len) := by
  intro h
  have h' : len < 256 := Nat.lt_succ_of_le (of_decide_eq_true h)
  refine (?_ : ∀ n < 256, encode (.enc n) &&& rowMask = 2 ∧ encode (.enc n) < 0x10000) len h'
  decide +kernel

theorem dec (len : Nat) : Statement (.dec len) := by
  intro h
  have h' : len < 256 := Nat.lt_succ_of_le (of_decide_eq_true h)
  refine (?_ : ∀ n < 256, encode (.dec n) &&& rowMask = 3 ∧ encode (.dec n) < 0x10000) len h'
  decide +kernel

theorem encn (len : Nat) : Statement (.encn len) := by
  intro h
  have h' : len < 256 := Nat.lt_succ_of_le (of_decide_eq_true h)
  refine (?_ : ∀ n < 256, encode (.encn n) &&& rowMask = 4 ∧ encode (.encn n) < 0x10000) len h'
  decide +kernel

end Sys2Proof.Laws.EncodesInTable
end

