-- ==== Sys2Proof/Tests/Slice0.lean ====
section
/-! SUPPORT. The model's own tests: the WellFormed smoke test, words written out from the encoding,
one-step tests whose results are the spec's test vectors (95_test_vectors.md), and for every
obligation with hypotheses a witness that meets them. -/

namespace Sys2Proof.Tests

open Sys2Proof.Machine

/-! ### WellFormed: its one check is the 8-bit width of LEN -/

theorem test_wf_refuses_wide_len :
    (Instr.keyset 256).wf = false ∧ (Instr.enc 256).wf = false ∧ (Instr.dec 256).wf = false ∧
      (Instr.encn 256).wf = false := by decide

theorem test_wf_accepts_len :
    (Instr.keyset 255).wf = true ∧ (Instr.enc 0).wf = true ∧ (Instr.dec 15).wf = true ∧
      (Instr.encn 16).wf = true := by decide

/-! ### Decode: RSV1 (16 bits), LEN (8), RSV0 (4), OP (4), written out (30_encoding.md R71, R72) -/

theorem test_decode_keyset :
    decode 0b0000000000000000_00010000_0000_0001 = .ok (.keyset 16) := by decide

theorem test_decode_enc :
    decode 0b0000000000000000_00000000_0000_0010 = .ok (.enc 0) := by decide

theorem test_decode_dec :
    decode 0b0000000000000000_11111111_0000_0011 = .ok (.dec 255) := by decide

theorem test_decode_encn :
    decode 0b0000000000000000_00010000_0000_0100 = .ok (.encn 16) := by decide

/-- The ILLEGAL_CMD rows of TV16. -/
theorem test_decode_rejects :
    decode 0x00001000 = .error .illegalOp ∧ decode 0x00001005 = .error .reservedOp ∧
      decode 0x0000100F = .error .illegalOp ∧ decode 0x00000F05 = .error .reservedOp ∧
      decode 0x00001012 = .error .reservedBits ∧ decode 0x00011002 = .error .reservedBits ∧
      decode 0x80001001 = .error .reservedBits := by decide

theorem test_encode_words :
    encode (.keyset 15) = 0x00000F01 ∧ encode (.enc 0) = 0x00000002 ∧
      encode (.dec 255) = 0x0000FF03 ∧ encode (.encn 16) = 0x00001004 := by decide

/-! ### Small states -/

/-- The known-answer key and block of TV1. -/
def katBlock : Block := ⟨0x01234567, 0x89abcdef, 0xfedcba98, 0x76543210⟩

/-- A state of a given configuration with the known-answer key loaded and expanded and the
known-answer block in DIN. -/
def keyedWith (cfg : Config) : State :=
  { State.resetWith cfg with
    key := Quad.map Reg.of katBlock
    din := Quad.map Reg.of katBlock
    rk := roundKeyFile katBlock
    keyValid := true }

def keyed : State := keyedWith Config.initial

/-- The same with the three ENCN registers and memory. -/
def batchWith (cfg : Config) (src dst n : Word) (m : Memory) : State :=
  { keyedWith cfg with src := Reg.of src, dst := Reg.of dst, nblk := Reg.of n, mem := m }

def batch (src dst n : Word) : State := batchWith Config.initial src dst n []

/-- A configuration with 64-bit addresses, which admits every access. -/
def cfg64 : Config :=
  { addrW := .w64, engineBase := 0x8000
    windows := [⟨.read, 0, 2 ^ 64⟩, ⟨.write, 0, 2 ^ 64⟩], device := [] }

/-- The platform of P5: reads everywhere, writes only below 0x2040. -/
def cfgP5 : Config :=
  { Config.initial with windows := [⟨.read, 0, 2 ^ 32⟩, ⟨.write, 0, 0x2040⟩] }

/-- A platform with a device at 0x2010. -/
def cfgDevice : Config := { Config.initial with device := [⟨0x2010, 0x2014⟩] }

/-- The nine blocks of TV15 at 0x1000: bytes 0x00 to 0x7F, then the known-answer block. -/
def tv15 : Memory :=
  Memory.writeBytes [] 0x1000
    ((List.range 128).map (BitVec.ofNat 8) ++ (Block.bytes katBlock).toList)

/-- What a next state shows. -/
def seen {α : Type} (f : State → α) : Host.Outcome State Fault Refusal → Option α
  | .next s => some (f s)
  | .fault _ => none
  | .refused _ => none

/-- STATUS after running a command word. -/
def statusAfter (w : Word) (s : State) : Option Word :=
  seen (fun t => t.readReg .status) (runCommand w s)

/-! ### One command each -/

/-- TV3: RK0, RK1, RK15 and RK31 of the known-answer key; STATUS. -/
theorem test_keyset :
    seen (fun t => (t.rk[0], t.rk[1], t.rk[15], t.rk[31], t.readReg .status))
        (exec (.keyset 16) { State.reset with key := Quad.map Reg.of katBlock }) =
      some (0xf12186f9, 0x41662b61, 0x104495a1, 0x9124a012, 1) := by decide +kernel

/-- TV1. -/
theorem test_enc :
    seen (fun t => t.dout) (exec (.enc 16) keyed) =
      some (Quad.map Reg.of ⟨0x681edf34, 0xd206965e, 0x86b3e94f, 0x536e4246⟩) := by decide +kernel

/-- TV9: DEC of the known-answer plaintext. -/
theorem test_dec :
    seen (fun t => t.dout) (exec (.dec 16) keyed) =
      some (Quad.map Reg.of ⟨0x9338375e, 0x82eec1cb, 0xbef65edf, 0x8757a631⟩) := by decide +kernel

/-- TV15 with N = 9: output blocks 7 (the vector group) and 8 (the scalar tail). -/
theorem test_encn_group_and_tail :
    seen (fun t => [7, 8].map fun k => (blockAt t.mem 0x2000 k).words)
        (exec (.encn 16) (batchWith Config.initial 0x1000 0x2000 9 tv15)) =
      some
        [⟨0x596849dc, 0x7c7a6d63, 0xca3a7675, 0x38d15ef6⟩,
          ⟨0x681edf34, 0xd206965e, 0x86b3e94f, 0x536e4246⟩] := by decide +kernel

/-- TV15: the same in place, at an address that is not 32-byte aligned. -/
theorem test_encn_in_place_unaligned :
    seen (fun t => (blockAt t.mem 0x1010 1).words)
        (exec (.encn 16) (batchWith Config.initial 0x1010 0x1010 8 tv15)) =
      some ⟨0xf42952cf, 0x94ac8368, 0x8437c9b6, 0x71d6c7fa⟩ := by decide +kernel

/-- TV16: the ENCN range and overlap rows. -/
theorem test_encn_range_rows :
    statusAfter 0x00001004 (batch 0x1000 0x1010 2) = some 0x43 ∧
      statusAfter 0x00001004 (batch 0x1010 0x1000 2) = some 0x43 ∧
      statusAfter 0x00001004 (batch 0x1000 0x1020 2) = some 1 ∧
      statusAfter 0x00001004 (batch 0x1000 0x1000 2) = some 1 ∧
      statusAfter 0x00001004 (batch 0xFFFFFFF0 0x2000 2) = some 0x43 ∧
      statusAfter 0x00001004 (batch 0xFFFFFFE0 0xFFFFFFE0 2) = some 1 ∧
      statusAfter 0x00001004 (batch 0x1000 0x2000 0xFFFFFFFF) = some 0x43 := by decide +kernel

/-- P5: the refused write ends ENCN with STATUS 0x53. -/
theorem test_encn_refused_write :
    seen (fun t => t.readReg .status)
      (exec (.encn 16) (batchWith cfgP5 0x1000 0x2000 8 [])) = some 0x53 := by decide +kernel

/-- TV16 and P4: the errors of a machine without a key. -/
theorem test_errors_without_key :
    statusAfter 0x00001002 State.reset = some 0x32 ∧ statusAfter 0x00000F01 State.reset = some 0x22 ∧
      statusAfter 0x00000F05 State.reset = some 0x12 ∧
      statusAfter 0x00001004 State.reset = some 0x32 ∧
      statusAfter 0x0000FF03 State.reset = some 0x22 := by decide +kernel

/-! ### Primitives -/

/-- TV6. -/
theorem test_round_transforms :
    tau 0x01234567 = 0x90f473a2 ∧ roundT 0x01234567 = 0x6ef180c9 ∧ tTab 0x01234567 = 0x6ef180c9 ∧
      roundTp 0x8283cb69 = 0x53b37958 ∧ linLp 0xc385c901 ≠ linL 0xc385c901 := by decide +kernel

/-- TV7. -/
theorem test_tt_entries :
    tt 0x23 = 0x24f7d3d3 ∧ tt 0x80 = 0x42e9abab ∧ tt 0xfe = 0xdd39e4e4 := by decide +kernel

/-- The group of TV12: block j has bytes 16j + i. -/
def tv12 : Lanes ByteBlock :=
  ⟨blockAt tv15 0x1000 0, blockAt tv15 0x1000 1, blockAt tv15 0x1000 2, blockAt tv15 0x1000 3,
    blockAt tv15 0x1000 4, blockAt tv15 0x1000 5, blockAt tv15 0x1000 6, blockAt tv15 0x1000 7⟩

/-- TV12: lane 0 and lane 7 of each lane-vector. -/
theorem test_transpose :
    (transpose tv12).map (fun v => (v.lane0, v.lane7)) =
      ⟨(0x00010203, 0x70717273), (0x04050607, 0x74757677), (0x08090a0b, 0x78797a7b),
        (0x0c0d0e0f, 0x7c7d7e7f)⟩ := by decide +kernel

/-- TV13: lanes 0, 1 and 7 of the new V3 after vector round 0. -/
theorem test_vector_round :
    let v := (vectorRound (transpose tv12) 0xf12186f9).w3
    v.lane0 = 0x1d6262d0 ∧ v.lane1 = 0xd2a46089 ∧ v.lane7 = 0x8b27fc2c := by decide +kernel

/-! ### The register port -/

/-- R24: `withFetchWord` puts the command where the next step takes it. -/
theorem test_withFetchWord :
    seen (fun t => t.readReg .status) (step (State.reset.withFetchWord 16 0x1001)) = some 1 := by
  decide +kernel

/-- R33: a halfword access and a misaligned access. -/
theorem test_bus_error :
    step { State.reset with pending := [.read 0x004 16] } = .fault .busError ∧
      step { State.reset with pending := [.write 0x011 32 0] } = .fault .busError := ⟨rfl, rfl⟩

/-- R33: an address outside the block is no register. -/
theorem test_outside_block :
    step { State.reset with pending := [.read 0x200 32] } = .refused .outsideBlock := rfl

/-- R81: `batch` with 64-bit addresses, in the order of the rule; P1's `keyset`. -/
theorem test_asm_lines :
    (AsmLine.batch 0x100001000 0x2000 9).ops cfg64 =
        [.write 0x8040 32 0x1000, .write 0x8044 32 1, .write 0x8048 32 0x2000, .write 0x804C 32 0,
          .write 0x8050 32 9, .write 0x8000 32 0x1004] ∧
      (AsmLine.keyset).ops cfg64 = [.write 0x8000 32 0x1001] := by decide

/-! ### Witnesses: encoding -/

theorem witness_DecodeAndEncodeAgree :
    (Instr.keyset 0).wf = true ∧ decode (encode (.keyset 0)) = .ok (.keyset 0) ∧
      (Instr.encn 255).wf = true ∧ decode (encode (.encn 255)) = .ok (.encn 255) := by decide

theorem witness_DecodeFollowsTheFields :
    (decode 0x0F03 = .ok (.dec 15) ∧ (Instr.dec 15).len ≠ 16) ∧
    ((0x10000 : Word) >>> 16 ≠ 0 ∧ ((0xF0 : Word) >>> 4) &&& 0xF ≠ 0) ∧
      ([0x0001, 0xFF02, 0x1003, 0x0004, 0x0000, 0xFF05, 0x000F] : List Word).all fun w =>
        w >>> 16 = 0 ∧ (w >>> 4) &&& 0xF = 0 := by decide

theorem witness_DecodeAgreesWithTheOpcodeMap :
    ∀ w ∈ [0x1000, 0x1005, 0x10001001, 0x11], ∀ i : Instr,
      (w : Word) &&& 0xFFFF00FF ≠ i.matchWord := by
  intro w h i
  simp only [List.mem_cons, List.not_mem_nil, or_false] at h
  rcases h with rfl | rfl | rfl | rfl <;> cases i <;> simp only [Instr.matchWord] <;> decide

theorem witness_IllegalOpcodeSetsOnlyStatus :
    (0x1000 : Word) &&& 0xF = 0 ∧ 5 ≤ ((0x1005 : Word) &&& 0xF).toNat ∧
      5 ≤ ((0x100F : Word) &&& 0xF).toNat := by decide

theorem witness_ReservedBitsAreIllegalAndWordsCounted :
    ((0x1011 : Word) &&& 0xFFFF00F0 ≠ 0 ∧ (0x80001001 : Word) &&& 0xFFFF00F0 ≠ 0) ∧
      (decode 0x1102 = .ok (.enc 17) ∧ ∃ t, runCommand 0x1102 keyed = .next t) ∧
      decode 0x1002 = .ok (.enc 16) ∧ ∃ t, runCommand 0x1002 keyed = .next t :=
  ⟨by decide, ⟨by decide, ⟨_, rfl⟩⟩, by decide, ⟨_, rfl⟩⟩

/-! ### Witnesses: the step and the register port -/

/-- A state whose next host operation is a given one. -/
def doing (op : HostOp) : State := { keyed with pending := [op] }

theorem witness_StepRunsTheDecodedCommand :
    (doing (cmdWrite keyed.cfg 0x1002)).pending = cmdWrite keyed.cfg 0x1002 :: [] ∧
      decode 0x1002 = .ok (.enc 16) ∧ ∀ i, decode 0x1005 ≠ .ok i :=
  ⟨rfl, by decide, by intro i h; cases h⟩

theorem witness_IdleEngineDoesNothing : State.reset.pending = [] := rfl

theorem witness_OnlyAlignedWordAccessesAreAccepted :
    (0x1FC < 0x200 ∧ 0x1FC % 4 = 0 ∧ 0x1FF < 0x200 ∧ 0x1FF % 4 ≠ 0 ∧ 16 ≠ 32) ∧
      (doing (.write 0x1FF 32 5)).pending = .write (keyed.cfg.engineBase + 0x1FF) 32 5 :: [] ∧
      (doing (.read 0x000 16)).pending = .read (keyed.cfg.engineBase + 0x000) 16 :: [] ∧
      (doing (.write 0x1FC 32 5)).pending = .write (keyed.cfg.engineBase + 0x1FC) 32 5 :: [] ∧
      (doing (.read 0x1FC 32)).pending = .read (keyed.cfg.engineBase + 0x1FC) 32 :: [] := by
  decide +kernel

theorem witness_ReservedOffsetsReadZeroAndIgnoreWrites :
    (∀ off ∈ [0x008, 0x00C, 0x054, 0x0FC, 0x180, 0x1FC, 0x044, 0x04C], off % 4 = 0 ∧
      (off = 0x008 ∨ off = 0x00C ∨ (0x054 ≤ off ∧ off < 0x100) ∨ (0x180 ≤ off ∧ off < 0x200) ∨
        (keyed.cfg.addrW = .w32 ∧ (off = 0x044 ∨ off = 0x04C)))) ∧
      (doing (.write 0x044 32 5)).pending = .write (keyed.cfg.engineBase + 0x044) 32 5 :: [] ∧
      (doing (.read 0x1FC 32)).pending = .read (keyed.cfg.engineBase + 0x1FC) 32 :: [] := by
  decide +kernel

theorem witness_ReadOnlyWritesIgnoredAndReadsHaveNoEffect :
    (doing (.write 0x004 32 5)).pending =
        .write (keyed.cfg.engineBase + RegName.status.offset) 32 5 :: [] ∧
      (doing (.write 0x17C 32 5)).pending =
        .write (keyed.cfg.engineBase + (RegName.rk 31).offset) 32 5 :: [] ∧
      (doing (.write 0x030 32 5)).pending =
        .write (keyed.cfg.engineBase + (RegName.dout 0).offset) 32 5 :: [] ∧
      (doing (.read 0x03C 32)).pending =
        .read (keyed.cfg.engineBase + (RegName.dout 3).offset) 32 :: [] := by decide +kernel

theorem witness_RegisterWriteReadsBack :
    (doing (.write 0x01C 32 5)).pending =
        .write (keyed.cfg.engineBase + (RegName.key 3).offset) 32 5 :: [] ∧
      (doing (.write 0x020 32 5)).pending =
        .write (keyed.cfg.engineBase + (RegName.din 0).offset) 32 5 :: [] ∧
      (doing (.write 0x050 32 5)).pending =
        .write (keyed.cfg.engineBase + RegName.nblk.offset) 32 5 :: [] ∧
      ({ keyedWith cfg64 with pending := [.write 0x804C 32 5] } : State).pending =
        .write (cfg64.engineBase + RegName.dstHi.offset) 32 5 :: [] ∧ cfg64.addrW = .w64 := by
  decide +kernel

theorem witness_AddressesAreFormedFromTheRegisterPairs :
    (batch 0x1000 0x2000 1).cfg.addrW = .w32 ∧ (keyedWith cfg64).cfg.addrW = .w64 := ⟨rfl, rfl⟩

theorem witness_RoundKeyWindowShowsTheFile : keyed.keyValid = true := rfl

theorem witness_UnwrittenRegisterReadsAsFreeValue : cfg64.addrW = .w64 := rfl

theorem witness_KeyWriteActsOnlyAtKeyset :
    (∃ u, exec (.enc 16) keyed = .next u) ∧ (∃ u, exec (.dec 16) keyed = .next u) ∧
      ∃ u, exec (.encn 16) (batch 0x1000 0x2000 0) = .next u := ⟨⟨_, rfl⟩, ⟨_, rfl⟩, ⟨_, rfl⟩⟩

/-! ### Witnesses: the commands on registers -/

theorem witness_LinearTransformsDistributeAndCommute : (0 : Nat) ≤ 31 ∧ 31 ≤ 31 := by decide

theorem witness_CryptFollowsTheSequence : (keyExpand katBlock).length = 32 := rfl

theorem witness_EncWritesTheCiphertext : keyed.keyValid = true := rfl

theorem witness_DecWritesThePlaintext : keyed.keyValid = true := rfl

theorem witness_EncThenDecRestoresTheBlock : keyed.keyValid = true := rfl

/-- Two states that differ in STATUS and in KEY. -/
theorem witness_ResultsDependOnlyOnOperands :
    (keyed.keyValid = true ∧ keyed.rk = (keyed.writeReg (.key 0) 5).rk ∧
      (∀ i, keyed.readReg (.din i) = (keyed.writeReg (.key 0) 5).readReg (.din i)) ∧
      (∃ t, exec (.enc 16) keyed = .next t) ∧
      ∃ t, exec (.dec 16) (keyed.writeReg (.key 0) 5) = .next t) ∧
      (∀ i, keyed.readReg (.key i) = (keyed.writeReg (.din 0) 5).readReg (.key i)) ∧
      ∃ t, exec (.keyset 16) (keyed.writeReg (.din 0) 5) = .next t :=
  ⟨⟨rfl, rfl, fun _ => rfl, ⟨_, rfl⟩, ⟨_, rfl⟩⟩, fun _ => rfl, ⟨_, rfl⟩⟩

theorem witness_RegisterCommandsFrame :
    (∃ t, exec (.keyset 16) keyed = .next t) ∧ (∃ t, exec (.enc 0) keyed = .next t) ∧
      ∃ t, exec (.dec 16) keyed = .next t := ⟨⟨_, rfl⟩, ⟨_, rfl⟩, ⟨_, rfl⟩⟩

/-! ### Witnesses: ENCN -/

theorem witness_EncnOfZeroBlocksSucceeds :
    (batch 0x1000 0x2000 0).readReg .nblk = 0 ∧ (batch 0x1000 0x2000 0).keyValid = true ∧
      ({ batch 0x1000 0x2000 0 with keyValid := false } : State).readReg .nblk = 0 ∧
      ({ batch 0x1000 0x2000 0 with keyValid := false } : State).keyValid = false ∧ 15 ≠ 16 := by
  decide +kernel

/-- A buffer that passes the top by one block, one that ends at the top, buffers that overlap by one
byte, and buffers that touch. -/
theorem witness_EncnRangeAndOverlapRule :
    ((batch 0xFFFFFFF0 0x2000 2).keyValid = true ∧ (batch 0xFFFFFFF0 0x2000 2).blockCount ≠ 0 ∧
      ¬ fitsSpace Config.initial (batch 0xFFFFFFF0 0x2000 2).srcAddr 0x2000 2) ∧
      ¬ sameOrDisjoint 0x1000 0x101F 2 ∧ fitsSpace Config.initial 0xFFFFFFE0 0x2000 2 ∧
      sameOrDisjoint 0x1000 0x1020 2 ∧ sameOrDisjoint 0x1000 0x1000 2 ∧
      ∃ t, exec (.encn 16) (batch 0x1000 0x2000 1) = .next t := by
  refine ⟨by decide +kernel, ?_, by decide +kernel, ?_, .inl rfl, ⟨_, rfl⟩⟩
  · intro h
    rcases h with h | h
    · exact absurd h (by decide)
    · exact h 0x101F (by decide)
  · exact .inr fun a h => by unfold inBuffer at h; omega

theorem witness_EncnResultIsTheEncryptionOfTheSource :
    Memory.wf (batchWith Config.initial 0x1000 0x2000 1 tv15).mem = true ∧
      seen (fun t => (t.err, t.mem != tv15))
        (exec (.encn 16) (batchWith Config.initial 0x1000 0x2000 1 tv15)) = some (.ok, true) ∧
      0 < (batchWith Config.initial 0x1000 0x2000 1 tv15).blockCount := by decide +kernel

/-- Every premise of ENCN's completion at once, for two blocks that end at the top of memory. -/
theorem witness_EncnEncryptsTheBuffer :
    let s := batch 0x1000 0xFFFFFFE0 2
    Memory.wf s.mem = true ∧ s.keyValid = true ∧ s.blockCount = 2 ∧ s.srcAddr = 0x1000 ∧
      s.dstAddr = 0xFFFFFFE0 ∧ fitsSpace s.cfg 0x1000 0xFFFFFFE0 2 ∧
      sameOrDisjoint 0x1000 0xFFFFFFE0 2 ∧ plainBuffers s.cfg 0x1000 0xFFFFFFE0 2 ∧
      admitsBuffers s.cfg 0x1000 0xFFFFFFE0 2 := by
  refine ⟨rfl, rfl, by decide +kernel, by decide +kernel, by decide +kernel, by decide +kernel, ?_,
    ?_, by decide +kernel⟩
  · exact .inr fun a h => by unfold inBuffer at h; omega
  · intro a _ r h
    cases h

theorem witness_VectorPathIsInvisible :
    Memory.wf tv15 = true ∧ sameOrDisjoint 0x1000 0x2000 9 ∧
      admitsBuffers Config.initial 0x1000 0x2000 9 ∧ groupCount 0x1000 0x2000 9 = 1 := by
  refine ⟨by decide +kernel, ?_, by decide +kernel, by decide +kernel⟩
  exact .inr fun a h => by unfold inBuffer at h; omega

/-- The start of P5's `batch`. -/
theorem witness_EncnRefusedAccessIsMemError :
    let s := batchWith cfgP5 0x1000 0x2000 8 []
    Memory.wf s.mem = true ∧ s.keyValid = true ∧ s.blockCount = 8 ∧ s.srcAddr = 0x1000 ∧
      s.dstAddr = 0x2000 ∧ fitsSpace s.cfg 0x1000 0x2000 8 ∧ sameOrDisjoint 0x1000 0x2000 8 ∧
      plainBuffers s.cfg 0x1000 0x2000 8 ∧ ¬ admitsBuffers s.cfg 0x1000 0x2000 8 := by
  refine ⟨rfl, rfl, by decide +kernel, by decide +kernel, by decide +kernel, by decide +kernel, ?_,
    ?_, by decide +kernel⟩
  · exact .inr fun a h => by unfold inBuffer at h; omega
  · intro a _ r h
    cases h

theorem witness_EncnOnDeviceMemoryIsRefused :
    let s := batchWith cfgDevice 0x1000 0x2000 2 []
    s.keyValid = true ∧ s.blockCount = 2 ∧ s.srcAddr = 0x1000 ∧ s.dstAddr = 0x2000 ∧
      fitsSpace s.cfg 0x1000 0x2000 2 ∧ sameOrDisjoint 0x1000 0x2000 2 ∧
      ¬ plainBuffers s.cfg 0x1000 0x2000 2 := by
  refine ⟨rfl, by decide +kernel, by decide +kernel, by decide +kernel, by decide +kernel, ?_, ?_⟩
  · exact .inr fun a h => by unfold inBuffer at h; omega
  · intro h
    exact h 0x2013 (.inr (by decide)) ⟨0x2010, 0x2014⟩ (by decide) (by decide)

theorem witness_EncnWritesNoRegisterButStatus :
    (∃ t, exec (.encn 16) (batch 0x1000 0x2000 1) = .next t ∧ t.err = .ok) ∧
      ∃ t, exec (.encn 15) keyed = .next t := by
  have h : seen (fun t => t.err) (exec (.encn 16) (batch 0x1000 0x2000 1)) = some .ok := by
    decide +kernel
  cases e : exec (.encn 16) (batch 0x1000 0x2000 1) with
  | next t => exact ⟨⟨t, rfl, by rw [e] at h; exact Option.some.inj h⟩, ⟨_, rfl⟩⟩
  | fault r => rw [e] at h; cases h
  | refused r => rw [e] at h; cases h

/-- An error that touches no memory. -/
theorem witness_EncnChangesOnlyTheDestination :
    Memory.wf keyed.mem = true ∧ exec (.encn 15) keyed = .next (keyed.raiseError .precondition) ∧
      (keyed.raiseError .precondition).err ≠ .ok ∧ (keyed.raiseError .precondition).err ≠ .mem := by
  refine ⟨rfl, rfl, ?_, ?_⟩ <;> decide

/-! ### Witnesses: errors and the whole machine -/

theorem witness_WrongLengthIsRejectedBeforeComputation :
    (Instr.keyset 15).len ≠ 16 ∧ (Instr.encn 17).len ≠ 16 := by decide

/-- ENCN with N > 0 and buffers that would be refused with a key. -/
theorem witness_CommandsWithoutKeyEndWithNoKey :
    State.reset.keyValid = false ∧
      ({ batch 0x1000 0x1010 2 with keyValid := false } : State).keyValid = false ∧
      ({ batch 0x1000 0x1010 2 with keyValid := false } : State).blockCount = 2 := by decide +kernel

/-- One input for each clause. -/
theorem witness_FirstApplicableErrorIsReported :
    (∃ t, runCommand 0xF05 keyed = .next t) ∧ (∃ t, runCommand 0xF01 keyed = .next t) ∧
      (∃ t, runCommand 0x1002 State.reset = .next t) ∧ (∃ t, runCommand 0x1001 keyed = .next t) ∧
      (∃ t, runCommand 0x1003 keyed = .next t) ∧
      (∃ t, runCommand 0x1004 (batch 0x1000 0x2000 0) = .next t) ∧
      (∃ t, runCommand 0x1004 (batch 0x1000 0x1010 2) = .next t) ∧
      (∃ t, runCommand 0x1004 (batch 0x1000 0x2000 8) = .next t) ∧
      ∃ t, runCommand 0x1004 (batchWith cfgP5 0x1000 0x2000 8 []) = .next t :=
  ⟨⟨_, rfl⟩, ⟨_, rfl⟩, ⟨_, rfl⟩, ⟨_, rfl⟩, ⟨_, rfl⟩, ⟨_, rfl⟩, ⟨_, rfl⟩, ⟨_, rfl⟩, ⟨_, rfl⟩⟩

theorem witness_CommandOutcomeIsRecordedInStatus :
    runCommand 0x1002 State.reset = .next (State.reset.raiseError .noKey) ∧
      (State.reset.raiseError .noKey).err ≠ .ok ∧ (State.reset.raiseError .noKey).err ≠ .mem ∧
      ∃ t, runCommand 0x1001 State.reset = .next t ∧ t.err = .ok :=
  ⟨rfl, by decide, by decide, ⟨_, rfl, rfl⟩⟩

/-- A reset after an error. -/
def failing (op : HostOp) : State := { State.reset.raiseError .noKey with pending := [op] }

theorem witness_OnlyResetClearsAnyErr :
    (∃ t, step (failing .reset) = .next t ∧ (failing .reset).anyErr = true ∧ t.anyErr = false) ∧
      ∃ t, step (doing (.write 0 32 0)) = .next t ∧ t.err ≠ .ok ∧
        (doing (.write 0 32 0)).commandPending 0 :=
  ⟨⟨_, rfl, rfl, rfl⟩, ⟨_, rfl, by decide, ⟨[], rfl⟩⟩⟩

theorem witness_ErrorsDoNotBlockLaterCommands : ∃ t, exec (.enc 16) keyed = .next t := ⟨_, rfl⟩

theorem witness_StepKeepsTheInvariant :
    (failing (.memWrite 0x10 5)).Inv ∧ ∃ t, step (failing (.memWrite 0x10 5)) = .next t ∧
      t.mem = [(0x10, 5)] :=
  ⟨⟨rfl, rfl, fun _ => rfl, fun _ => ⟨rfl, rfl⟩⟩, ⟨_, rfl, rfl⟩⟩

theorem witness_OnlyKeysetAndResetChangeTheInstance :
    (∃ t, step { State.reset with pending := [.write 0 32 0x1001] } = .next t ∧
      t.keyValid ≠ State.reset.keyValid) ∧
      ∃ t, step (doing .reset) = .next t ∧ keyed.keyValid = true ∧ t.keyValid = false := by
  refine ⟨⟨_, rfl, ?_⟩, ⟨_, rfl, rfl, rfl⟩⟩
  intro h
  cases h

theorem witness_OnlyEncDecAndResetChangeDout :
    ∃ t, step (doing (.write 0 32 0x1002)) = .next t ∧
      t.dout ≠ (doing (.write 0 32 0x1002)).dout := by
  refine ⟨_, rfl, ?_⟩
  intro h
  exact absurd (congrArg (fun q : Quad Reg => q.w0.written) h) (by decide +kernel)

theorem witness_ResetValues : Config.initial.addrW = .w32 := rfl

theorem witness_ResetDestroysTheInstance : (doing .reset).pending = .reset :: [] := rfl

theorem witness_ResetDuringCommandAbandonsIt :
    Memory.wf (doing (.resetDuring 0x1004)).mem = true ∧
      (doing (.resetDuring 0x1004)).pending = .resetDuring 0x1004 :: [] ∧
      (∀ n, decode 0x1002 ≠ .ok (.encn n)) ∧ decode 0x1004 = .ok (.encn 16) :=
  ⟨rfl, rfl, (by intro n h; cases h), rfl⟩

/-- The last byte of a destination range that ends at the top of memory. -/
theorem witness_ResetDuringCommandAbandonsIt_destination :
    let s := { batch 0x1000 0xFFFFFFE0 2 with pending := [.resetDuring 0x1004] }
    Memory.wf s.mem = true ∧ inBuffer (s.pop []).dstAddr (s.pop []).blockCount 0xFFFFFFFF ∧
      0xFFFFFFFF < s.cfg.space := by decide +kernel

/-- The last address of the memory space and the first one past it. -/
theorem witness_HostMemoryBytesAreStoredAndRead :
    Memory.wf (doing (.memWrite 0xFFFFFFFF 5)).mem = true ∧
      (doing (.memWrite 0xFFFFFFFF 5)).pending = .memWrite 0xFFFFFFFF 5 :: [] ∧
      0xFFFFFFFF < Config.initial.space ∧
      (doing (.memRead 0xFFFFFFFF)).pending = .memRead 0xFFFFFFFF :: [] ∧
      (doing (.memRead 0x100000000)).pending = .memRead 0x100000000 :: [] ∧
      (doing (.memWrite 0x100000000 5)).pending = .memWrite 0x100000000 5 :: [] ∧
      Config.initial.space ≤ 0x100000000 := by decide +kernel

end Sys2Proof.Tests
end

section
/-! SUPPORT. What reading and writing a register gives: the rules of the register file
(10_state.md R23 to R34, R43). -/

namespace Sys2Proof.Machine

/-! #### Reads -/

@[simp] theorem Reg.read_of (draw v : Word) : (Reg.of v).read draw = v := rfl

@[simp] theorem Reg.read_unwritten (draw : Word) : Reg.unwritten.read draw = draw := rfl

@[simp] theorem get_unwrittenQuad (i : Fin 4) : unwrittenQuad.get i = Reg.unwritten := by
  fin_cases i <;> rfl

theorem readHi_w32 {cfg : Config} (h : cfg.addrW = .w32) (draw : Word) (r : Reg) :
    readHi cfg draw r = 0 := by
  simp [readHi, h]

theorem readHi_w64 {cfg : Config} (h : cfg.addrW = .w64) (draw : Word) (r : Reg) :
    readHi cfg draw r = r.read draw := by
  simp [readHi, h]

/-- SRC_HI and DST_HI are the registers that only ADDR_W = 64 has (10_state.md R29). -/
theorem readReg_hi_w32 {s : State} (h : s.cfg.addrW = .w32) :
    s.readReg .srcHi = 0 ∧ s.readReg .dstHi = 0 :=
  ⟨readHi_w32 h .., readHi_w32 h ..⟩

theorem writeReg_hi_w32 {s : State} (h : s.cfg.addrW = .w32) (v : Word) :
    s.writeReg .srcHi v = s ∧ s.writeReg .dstHi v = s := by
  simp [State.writeReg, h]

/-- The registers a host write does not change (10_state.md R25, R28, R31, R34). -/
theorem writeReg_readOnly {r : RegName}
    (h : r = .status ∨ (∃ i, r = .dout i) ∨ ∃ i, r = .rk i) (v : Word) (s : State) :
    s.writeReg r v = s := by
  rcases h with rfl | ⟨i, rfl⟩ | ⟨i, rfl⟩ <;> rfl

/-- The registers the host reads and writes; SRC_HI and DST_HI when ADDR_W = 64 (10_state.md R26,
R27, R29, R30). -/
def RegName.ReadWrite (cfg : Config) (r : RegName) : Prop :=
  (∃ i, r = .key i) ∨ (∃ i, r = .din i) ∨ r = .src ∨ r = .dst ∨ r = .nblk ∨
    (cfg.addrW = .w64 ∧ (r = .srcHi ∨ r = .dstHi))

theorem RegName.ReadWrite.ne_cmd {cfg : Config} {r : RegName} (h : RegName.ReadWrite cfg r) :
    r ≠ .cmd := by
  rintro rfl
  simp [RegName.ReadWrite] at h

/-! #### Which field a register write changes -/

section
variable (r : RegName) (v : Word) (s : State)

@[simp] theorem draw_writeReg (r' : RegName) : (s.writeReg r v).draw r' = s.draw r' := by
  simp [State.draw]

@[simp] theorem statusWord_writeReg : (s.writeReg r v).statusWord = s.statusWord := by
  simp [State.statusWord]

variable {r}

theorem key_writeReg_of_ne {i : Fin 4} (h : r ≠ .key i) :
    (s.writeReg r v).key.get i = s.key.get i := by
  cases r with
  | key j =>
    have hij : i ≠ j := fun e => h (e ▸ rfl)
    simp [State.writeReg, hij]
  | srcHi | dstHi => simp only [State.writeReg]; split <;> rfl
  | _ => rfl

theorem din_writeReg_of_ne {i : Fin 4} (h : r ≠ .din i) :
    (s.writeReg r v).din.get i = s.din.get i := by
  cases r with
  | din j =>
    have hij : i ≠ j := fun e => h (e ▸ rfl)
    simp [State.writeReg, hij]
  | srcHi | dstHi => simp only [State.writeReg]; split <;> rfl
  | _ => rfl

theorem src_writeReg_of_ne (h : r ≠ .src) : (s.writeReg r v).src = s.src := by
  cases r with
  | src => exact absurd rfl h
  | srcHi | dstHi => simp only [State.writeReg]; split <;> rfl
  | _ => rfl

theorem srcHi_writeReg_of_ne (h : r ≠ .srcHi) : (s.writeReg r v).srcHi = s.srcHi := by
  cases r with
  | srcHi => exact absurd rfl h
  | dstHi => simp only [State.writeReg]; split <;> rfl
  | _ => rfl

theorem dst_writeReg_of_ne (h : r ≠ .dst) : (s.writeReg r v).dst = s.dst := by
  cases r with
  | dst => exact absurd rfl h
  | srcHi | dstHi => simp only [State.writeReg]; split <;> rfl
  | _ => rfl

theorem dstHi_writeReg_of_ne (h : r ≠ .dstHi) : (s.writeReg r v).dstHi = s.dstHi := by
  cases r with
  | dstHi => exact absurd rfl h
  | srcHi => simp only [State.writeReg]; split <;> rfl
  | _ => rfl

theorem nblk_writeReg_of_ne (h : r ≠ .nblk) : (s.writeReg r v).nblk = s.nblk := by
  cases r with
  | nblk => exact absurd rfl h
  | srcHi | dstHi => simp only [State.writeReg]; split <;> rfl
  | _ => rfl

/-- A register write changes what no other register reads (10_state.md R26 to R31). -/
theorem readReg_writeReg_of_ne {r' : RegName} (h : r' ≠ r) :
    (s.writeReg r v).readReg r' = s.readReg r' := by
  cases r' with
  | cmd => rfl
  | status => simp [State.readReg]
  | key i => simp [State.readReg, key_writeReg_of_ne v s h.symm]
  | din i => simp [State.readReg, din_writeReg_of_ne v s h.symm]
  | dout i => simp [State.readReg]
  | src => simp [State.readReg, src_writeReg_of_ne v s h.symm]
  | srcHi => simp [State.readReg, srcHi_writeReg_of_ne v s h.symm]
  | dst => simp [State.readReg, dst_writeReg_of_ne v s h.symm]
  | dstHi => simp [State.readReg, dstHi_writeReg_of_ne v s h.symm]
  | nblk => simp [State.readReg, nblk_writeReg_of_ne v s h.symm]
  | rk i => simp [State.readReg]

/-- A read-write register reads what was last written (10_state.md R26, R27, R29, R30). -/
theorem readReg_writeReg_same (h : RegName.ReadWrite s.cfg r) : (s.writeReg r v).readReg r = v := by
  rcases h with ⟨i, rfl⟩ | ⟨i, rfl⟩ | rfl | rfl | rfl | ⟨h64, rfl | rfl⟩ <;>
    simp [State.readReg, State.writeReg, readHi_w64, *]

end

end Sys2Proof.Machine
end

section
/-! SUPPORT. What a step does whose host operation is a register access, and what a command can
answer: the port's rules (10_state.md R24, R32 to R34). -/

namespace Sys2Proof.Machine

/-- The offsets of the block are the distances from ENGINE_BASE (10_state.md R23). -/
theorem blockOffset_eq_some {cfg : Config} {a off : Nat} :
    blockOffset cfg a = some off ↔ a = cfg.engineBase + off ∧ off < blockSize := by
  unfold blockOffset
  split
  · simp only [Option.some.injEq]
    omega
  · simp only [reduceCtorEq, false_iff]
    omega

theorem portAccepts_eq_true {off width : Nat} :
    portAccepts off width = true ↔ width = 32 ∧ off % 4 = 0 := by
  simp [portAccepts]

section
variable {s : State} {off width : Nat} {v : Word} {rest : List HostOp}

/-- A write inside the block: the port's check, then the access (10_state.md R33). -/
theorem step_write (hoff : off < blockSize)
    (hp : s.pending = .write (s.cfg.engineBase + off) width v :: rest) :
    step s = if portAccepts off width then portWrite off v (s.pop rest) else .fault .busError := by
  simp [step_cons hp, serve, hostWrite, blockOffset_base s.cfg hoff]

/-- A read inside the block: the port's check, then the value for the host (10_state.md R33). -/
theorem step_read (hoff : off < blockSize)
    (hp : s.pending = .read (s.cfg.engineBase + off) width :: rest) :
    step s = if portAccepts off width then
        .next ((s.pop rest).deliver ((s.pop rest).portRead off))
      else .fault .busError := by
  simp [step_cons hp, serve, hostRead, blockOffset_base s.cfg hoff]

end

@[simp] theorem portAccepts_offset (r : RegName) : portAccepts r.offset 32 = true :=
  portAccepts_eq_true.mpr ⟨rfl, (offset_in_block r).1⟩

@[simp] theorem portRead_offset (s : State) (r : RegName) : s.portRead r.offset = s.readReg r := by
  simp [State.portRead]

@[simp] theorem portWrite_cmd (v : Word) (s : State) :
    portWrite RegName.cmd.offset v s = runCommand v s := by
  simp [portWrite]

theorem portWrite_offset {r : RegName} (hr : r ≠ .cmd) (v : Word) (s : State) :
    portWrite r.offset v s = .next (s.writeReg r v) := by
  rcases portWrite_cases r.offset v s with ⟨h, _⟩ | ⟨r', _, h, e⟩ | ⟨h, _⟩
  · exact absurd (by simpa using h) hr
  · obtain rfl : r = r' := by simpa using h
    exact e
  · simp at h

/-- The offsets without a register under this configuration: SRC_HI and DST_HI are there only when
ADDR_W = 64 (10_state.md R29, R32). -/
def ReservedOffset (cfg : Config) (off : Nat) : Prop :=
  regAt off = none ∨
    (cfg.addrW = .w32 ∧ (off = RegName.srcHi.offset ∨ off = RegName.dstHi.offset))

theorem portWrite_reserved {s : State} {off : Nat} (h : ReservedOffset s.cfg off) (v : Word) :
    portWrite off v s = .next s := by
  rcases h with h | ⟨h32, rfl | rfl⟩
  · simp [portWrite, h]
  · rw [portWrite_offset (by decide), (writeReg_hi_w32 h32 v).1]
  · rw [portWrite_offset (by decide), (writeReg_hi_w32 h32 v).2]

theorem portRead_reserved {s : State} {off : Nat} (h : ReservedOffset s.cfg off) :
    s.portRead off = 0 := by
  rcases h with h | ⟨h32, rfl | rfl⟩
  · simp [State.portRead, h]
  · rw [portRead_offset, (readReg_hi_w32 h32).1]
  · rw [portRead_offset, (readReg_hi_w32 h32).2]

/-- The gaps of the register map (10_state.md R23). -/
theorem regAt_gap {off : Nat}
    (h : off = 0x008 ∨ off = 0x00C ∨ (0x054 ≤ off ∧ off < 0x100) ∨ (0x180 ≤ off ∧ off < 0x200)) :
    regAt off = none := by
  rw [regAt_eq_none]
  intro r hr
  cases r <;> simp only [RegName.offset] at hr <;> omega

section
variable {s : State} {r : RegName} {v w : Word} {rest : List HostOp}

/-- A step that writes CMD runs the word (10_state.md R24). -/
theorem step_cmdWrite (hp : s.pending = cmdWrite s.cfg w :: rest) :
    step s = runCommand w (s.pop rest) := by
  rw [step_write (offset_in_block .cmd).2 hp, if_pos (portAccepts_offset _), portWrite_cmd]

theorem step_writeReg (hr : r ≠ .cmd)
    (hp : s.pending = .write (s.cfg.engineBase + r.offset) 32 v :: rest) :
    step s = .next ((s.pop rest).writeReg r v) := by
  rw [step_write (offset_in_block r).2 hp, if_pos (portAccepts_offset _), portWrite_offset hr]

theorem step_readReg (hp : s.pending = .read (s.cfg.engineBase + r.offset) 32 :: rest) :
    step s = .next ((s.pop rest).deliver ((s.pop rest).readReg r)) := by
  rw [step_read (offset_in_block r).2 hp, if_pos (portAccepts_offset _), portRead_offset]

end

/-! #### The answers of a command -/

/-- No command answers a fault: the engine's one exception mechanism is the error code
(60_exceptions.md R209). -/
theorem exec_ne_fault (i : Instr) (s : State) (f : Fault) : exec i s ≠ .fault f := by
  cases i with
  | keyset n => rcases execKeyset_eq n s with ⟨_, e⟩ | ⟨_, e⟩ <;> simp [exec, e]
  | enc n => rcases execEnc_eq n s with ⟨_, e⟩ | ⟨_, _, e⟩ | ⟨_, _, e⟩ <;> simp [exec, e]
  | dec n => rcases execDec_eq n s with ⟨_, e⟩ | ⟨_, _, e⟩ | ⟨_, _, e⟩ <;> simp [exec, e]
  | encn n =>
    simp only [exec, execEncn]
    repeat' split
    all_goals simp

theorem runCommand_ne_fault (w : Word) (s : State) (f : Fault) : runCommand w s ≠ .fault f := by
  cases h : decode w with
  | ok i => rw [runCommand_ok h]; exact exec_ne_fault i s f
  | error e => simp [runCommand_error h]

theorem portWrite_ne_fault (off : Nat) (v : Word) (s : State) (f : Fault) :
    portWrite off v s ≠ .fault f := by
  rcases portWrite_cases off v s with ⟨_, e⟩ | ⟨r, _, _, e⟩ | ⟨_, e⟩ <;> rw [e]
  · exact runCommand_ne_fault v s f
  · simp
  · simp

/-- A CMD write answers its command's outcome or Error(ILLEGAL_CMD) (30_encoding.md R78). -/
theorem runCommand_next {w : Word} {s t : State} (h : runCommand w s = .next t) :
    (∃ i, decode w = .ok i ∧ exec i s = .next t) ∨
      ((∃ e, decode w = .error e) ∧ t = s.raiseError .illegalCmd) := by
  cases hd : decode w with
  | ok i => exact .inl ⟨i, rfl, runCommand_ok hd s ▸ h⟩
  | error e =>
    rw [runCommand_error hd] at h
    cases h
    exact .inr ⟨⟨e, rfl⟩, rfl⟩

section
variable (src dst n : Nat) (s : State)

@[simp] theorem runBatch_rk : (s.runBatch src dst n).rk = s.rk := by
  rcases runBatch_eq src dst n s with ⟨m, _, e⟩ | ⟨_, e⟩ <;> simp [e]

@[simp] theorem runBatch_keyValid : (s.runBatch src dst n).keyValid = s.keyValid := by
  rcases runBatch_eq src dst n s with ⟨m, _, e⟩ | ⟨_, e⟩ <;> simp [e]

@[simp] theorem runBatch_dout : (s.runBatch src dst n).dout = s.dout := by
  rcases runBatch_eq src dst n s with ⟨m, _, e⟩ | ⟨_, e⟩ <;> simp [e]

end

/-- ENCN writes none of RK, KEY_VALID and DOUT (44_batch.md R188). -/
theorem execEncn_keeps {n : Nat} {s t : State} (h : execEncn n s = .next t) :
    t.rk = s.rk ∧ t.keyValid = s.keyValid ∧ t.dout = s.dout := by
  rcases execEncn_next h with
    ⟨_, rfl⟩ | ⟨_, _, rfl⟩ | ⟨_, _, _, rfl⟩ | ⟨_, _, _, _, rfl⟩ | ⟨_, _, _, _, _, _, rfl⟩ <;> simp

/-- Only KEYSET with LEN = 16 writes the round keys and KEY_VALID (10_state.md R35). -/
theorem exec_roundKeys {i : Instr} {s t : State} (h : exec i s = .next t) :
    (t.rk = s.rk ∧ t.keyValid = s.keyValid) ∨ (i = .keyset 16 ∧ t.keyValid = true) := by
  cases i with
  | keyset n =>
    rcases execKeyset_eq n s with ⟨_, e⟩ | ⟨rfl, e⟩ <;> cases e.symm.trans h
    · exact .inl ⟨rfl, rfl⟩
    · exact .inr ⟨rfl, rfl⟩
  | enc n =>
    rcases execEnc_eq n s with ⟨_, e⟩ | ⟨_, _, e⟩ | ⟨_, _, e⟩ <;> cases e.symm.trans h <;>
      exact .inl ⟨rfl, rfl⟩
  | dec n =>
    rcases execDec_eq n s with ⟨_, e⟩ | ⟨_, _, e⟩ | ⟨_, _, e⟩ <;> cases e.symm.trans h <;>
      exact .inl ⟨rfl, rfl⟩
  | encn n =>
    obtain ⟨hrk, hkv, _⟩ := execEncn_keeps h
    exact .inl ⟨hrk, hkv⟩

/-- Only ENC and DEC with LEN = 16 and a valid key write DOUT (10_state.md R28). -/
theorem exec_dout {i : Instr} {s t : State} (h : exec i s = .next t) :
    t.dout = s.dout ∨ (s.keyValid = true ∧ (i = .enc 16 ∨ i = .dec 16)) := by
  cases i with
  | keyset n =>
    rcases execKeyset_eq n s with ⟨_, e⟩ | ⟨_, e⟩ <;> cases e.symm.trans h <;> exact .inl rfl
  | enc n =>
    rcases execEnc_eq n s with ⟨_, e⟩ | ⟨_, _, e⟩ | ⟨rfl, hk, e⟩
    · cases e.symm.trans h; exact .inl rfl
    · cases e.symm.trans h; exact .inl rfl
    · exact .inr ⟨hk, .inl rfl⟩
  | dec n =>
    rcases execDec_eq n s with ⟨_, e⟩ | ⟨_, _, e⟩ | ⟨rfl, hk, e⟩
    · cases e.symm.trans h; exact .inl rfl
    · cases e.symm.trans h; exact .inl rfl
    · exact .inr ⟨hk, .inr rfl⟩
  | encn n => exact .inl (execEncn_keeps h).2.2

/-! #### The answers of a step -/

/-- What only a command and a reset change: STATUS, DOUT and the round keys. -/
structure State.SameResults (s t : State) : Prop where
  keyValid : t.keyValid = s.keyValid
  anyErr : t.anyErr = s.anyErr
  err : t.err = s.err
  dout : t.dout = s.dout
  rk : t.rk = s.rk

theorem State.SameResults.refl (s : State) : s.SameResults s := ⟨rfl, rfl, rfl, rfl, rfl⟩

/-- Every step is a reset, a CMD write, or leaves STATUS, DOUT and the round keys. -/
theorem step_next {s t : State} (h : step s = .next t) :
    s.resetPending ∨
      (∃ w rest, s.pending = cmdWrite s.cfg w :: rest ∧ runCommand w (s.pop rest) = .next t) ∨
      s.SameResults t := by
  cases hp : s.pending with
  | nil =>
    cases (step_nil hp).symm.trans h
    exact .inr (.inr (.refl s))
  | cons op rest =>
    rcases serve_next ((step_cons hp).symm.trans h) with
      ⟨a, v, rfl, ha, hrun⟩ | ⟨a, v, r, rfl, _, _, rfl⟩ | ⟨a, v, off, rfl, _, _, rfl⟩ |
      ⟨a, off, rfl, _, rfl⟩ | ⟨a, b, rfl, _, rfl⟩ | ⟨a, rfl, _, rfl⟩ | ⟨rfl, rfl⟩ | ⟨w, rfl, rfl⟩
    · obtain ⟨rfl, _⟩ := blockOffset_eq_some.mp ha
      exact .inr (.inl ⟨v, rest, rfl, hrun⟩)
    · exact .inr (.inr ⟨by simp, by simp, by simp, by simp, by simp⟩)
    · exact .inr (.inr ⟨rfl, rfl, rfl, rfl, rfl⟩)
    · exact .inr (.inr ⟨rfl, rfl, rfl, rfl, rfl⟩)
    · exact .inr (.inr ⟨rfl, rfl, rfl, rfl, rfl⟩)
    · exact .inr (.inr ⟨rfl, rfl, rfl, rfl, rfl⟩)
    · exact .inl ⟨rest, .inl hp⟩
    · exact .inl ⟨rest, .inr ⟨w, hp⟩⟩

/-- A step is a reset, installs a key by KEYSET with LEN = 16, or keeps RK and KEY_VALID
(10_state.md R25, R35). -/
theorem step_roundKeys {s t : State} (h : step s = .next t) :
    s.resetPending ∨
      (∃ w, s.commandPending w ∧ decode w = .ok (.keyset 16) ∧ t.keyValid = true) ∨
      (t.rk = s.rk ∧ t.keyValid = s.keyValid) := by
  rcases step_next h with hreset | ⟨w, rest, hp, hrun⟩ | hsame
  · exact .inl hreset
  · rcases runCommand_next hrun with ⟨i, hd, hexec⟩ | ⟨_, rfl⟩
    · rcases exec_roundKeys hexec with hkeep | ⟨rfl, hkv⟩
      · exact .inr (.inr hkeep)
      · exact .inr (.inl ⟨w, ⟨rest, hp⟩, hd, hkv⟩)
    · exact .inr (.inr ⟨rfl, rfl⟩)
  · exact .inr (.inr ⟨hsame.rk, hsame.keyValid⟩)

/-- A step is a reset, an ENC or DEC with LEN = 16 and a valid key, or keeps DOUT (10_state.md
R28). -/
theorem step_dout {s t : State} (h : step s = .next t) :
    s.resetPending ∨
      (∃ w, s.commandPending w ∧ s.keyValid = true ∧
        (decode w = .ok (.enc 16) ∨ decode w = .ok (.dec 16))) ∨
      t.dout = s.dout := by
  rcases step_next h with hreset | ⟨w, rest, hp, hrun⟩ | hsame
  · exact .inl hreset
  · rcases runCommand_next hrun with ⟨i, hd, hexec⟩ | ⟨_, rfl⟩
    · rcases exec_dout hexec with hdout | ⟨hk, rfl | rfl⟩
      · exact .inr (.inr hdout)
      · exact .inr (.inl ⟨w, ⟨rest, hp⟩, hk, .inl hd⟩)
      · exact .inr (.inl ⟨w, ⟨rest, hp⟩, hk, .inr hd⟩)
    · exact .inr (.inr rfl)
  · exact .inr (.inr hsame.dout)

end Sys2Proof.Machine
end

section
/-! SUPPORT. The bits of STATUS, the addresses of ENCN, and the registers right after reset
(10_state.md R25, R29, R42). -/

namespace Sys2Proof.Machine

theorem ErrCode.code_le (e : ErrCode) : e.code ≤ 5 := by
  cases e <;> decide

/-- The fields of a STATUS word, for every value of the two flags and every code (10_state.md
R25). -/
theorem statusFields : ∀ (k a : Bool) (c : Fin 6),
    (BitVec.ofNat 32 (k.toNat + 2 * a.toNat + 16 * c.val)).getLsbD 0 = k ∧
      (BitVec.ofNat 32 (k.toNat + 2 * a.toNat + 16 * c.val)).getLsbD 1 = a ∧
      ((BitVec.ofNat 32 (k.toNat + 2 * a.toNat + 16 * c.val) >>> 4) &&& 0xF).toNat = c.val ∧
      BitVec.ofNat 32 (k.toNat + 2 * a.toNat + 16 * c.val) &&& 0xFFFFFF0C = 0 := by
  decide

theorem address_w32 {cfg : Config} (h : cfg.addrW = .w32) (hi lo : Word) :
    address cfg hi lo = lo.toNat := by
  simp [address, h]

/-- `(HI << 32) | LO` is the concatenation of the pair (10_state.md R29). -/
theorem address_w64 {cfg : Config} (h : cfg.addrW = .w64) (hi lo : Word) :
    address cfg hi lo = (hi ++ lo).toNat := by
  rw [BitVec.toNat_append, ← Nat.shiftLeft_add_eq_or_of_lt lo.isLt, Nat.shiftLeft_eq]
  simp [address, h]

end Sys2Proof.Machine
end

section
/-! The obligations of 10_state.md: the register port, the register file, STATUS and reset. -/

namespace Sys2Proof.Machine

/-- Settles O9: the port's check decides, and what an accepted access does is no fault. -/
theorem onlyAlignedWordAccessesAreAccepted : Obligations.OnlyAlignedWordAccessesAreAccepted := by
  intro s off width v rest hoff
  refine ⟨fun hbad => ?_, fun hw h4 => ?_⟩
  · have hport : ¬ portAccepts off width = true := by
      rw [portAccepts_eq_true]
      omega
    exact ⟨fun hp => by rw [step_write hoff hp, if_neg hport],
      fun hp => by rw [step_read hoff hp, if_neg hport]⟩
  · have hport : portAccepts off width = true := portAccepts_eq_true.mpr ⟨hw, h4⟩
    refine ⟨fun hp => ?_, fun hp => ⟨_, by rw [step_read hoff hp, if_pos hport]⟩⟩
    rw [step_write hoff hp, if_pos hport]
    exact portWrite_ne_fault off v _ _

/-- Settles O10: the offsets are the gaps of the register map and, when ADDR_W = 32, the two high
halves; at both the port ignores a write and reads 0. -/
theorem reservedOffsetsReadZeroAndIgnoreWrites :
    Obligations.ReservedOffsetsReadZeroAndIgnoreWrites := by
  intro s off v rest h4 hres
  have hreserved : ReservedOffset (s.pop rest).cfg off := by
    rcases hres with h | h | h | h | h
    · exact .inl (regAt_gap (.inl h))
    · exact .inl (regAt_gap (.inr (.inl h)))
    · exact .inl (regAt_gap (.inr (.inr (.inl h))))
    · exact .inl (regAt_gap (.inr (.inr (.inr h))))
    · exact .inr h
  have hoff : off < blockSize := by
    unfold blockSize
    omega
  have hport : portAccepts off 32 = true := portAccepts_eq_true.mpr ⟨rfl, h4⟩
  refine ⟨fun hp => ?_, fun hp => ?_⟩
  · rw [step_write hoff hp, if_pos hport, portWrite_reserved hreserved]
    rfl
  · rw [step_read hoff hp, if_pos hport, portRead_reserved hreserved]
    rfl

/-- Settles O11: such a register write is no change, and a read only delivers its value. -/
theorem readOnlyWritesIgnoredAndReadsHaveNoEffect :
    Obligations.ReadOnlyWritesIgnoredAndReadsHaveNoEffect := by
  intro s rest
  refine ⟨fun r v hr hp => ?_, fun r hp => step_readReg hp⟩
  have hcmd : r ≠ .cmd := by
    rintro rfl
    simp at hr
  rw [step_writeReg hcmd hp, writeReg_readOnly hr]
  rfl

/-- Settles O12, by the read-after-write rules of the register file. -/
theorem registerWriteReadsBack : Obligations.RegisterWriteReadsBack := by
  intro s r v rest (hr : RegName.ReadWrite s.cfg r) hp
  exact ⟨(s.pop rest).writeReg r v, step_writeReg hr.ne_cmd hp,
    readReg_writeReg_same v (s.pop rest) hr,
    fun r' hne => readReg_writeReg_of_ne v (s.pop rest) hne, by simp⟩

/-- Settles O54, by what a step does to RK and KEY_VALID. -/
theorem onlyKeysetAndResetChangeTheInstance : Obligations.OnlyKeysetAndResetChangeTheInstance := by
  intro s t h
  rcases step_roundKeys h with hreset | ⟨w, hp, hd, hkv⟩ | ⟨hrk, hkv⟩
  · exact ⟨fun _ => .inl hreset, fun _ _ => hreset⟩
  · exact ⟨fun _ => .inr ⟨w, hp, hd⟩, fun _ hoff => by simp [hkv] at hoff⟩
  · exact ⟨fun hne => absurd hkv (hne.resolve_left (absurd hrk)),
      fun hon hoff => by simp [hkv, hon] at hoff⟩

/-- Settles O55, by what a step does to DOUT. -/
theorem onlyEncDecAndResetChangeDout : Obligations.OnlyEncDecAndResetChangeDout := by
  intro s t h hne
  rcases step_dout h with hreset | hcommand | hdout
  · exact .inl hreset
  · exact .inr hcommand
  · exact absurd hdout hne

/-- Settles O7: the step is the CMD write of the word, which decodes to a command or to none. -/
theorem stepRunsTheDecodedCommand : Obligations.StepRunsTheDecodedCommand := by
  intro s w rest hp
  rw [step_cmdWrite hp]
  refine ⟨fun i hd => runCommand_ok hd _, fun hno => ?_⟩
  cases hd : decode w with
  | ok i => exact absurd hd (hno i)
  | error e => exact runCommand_error hd _

/-- Settles O13, at each width by the rule of address formation. -/
theorem addressesAreFormedFromTheRegisterPairs :
    Obligations.AddressesAreFormedFromTheRegisterPairs := fun _ =>
  ⟨fun h => ⟨address_w32 h .., address_w32 h .., readReg_hi_w32 h⟩,
    fun h => ⟨address_w64 h .., address_w64 h ..⟩⟩

/-- Settles O14: every ERR code is at most 5, and the fields are checked for those codes. -/
theorem statusWordHasTheFields : Obligations.StatusWordHasTheFields := by
  refine ⟨⟨rfl, rfl, rfl, rfl, rfl, rfl⟩, fun s => ?_⟩
  obtain ⟨hkey, hany, herr, hrest⟩ :=
    statusFields s.keyValid s.anyErr ⟨s.err.code, Nat.lt_succ_of_le s.err.code_le⟩
  exact ⟨hkey, hany, herr, s.err.code_le, hrest⟩

/-- Settles O15: both are what a read of the register is. -/
theorem roundKeyWindowShowsTheFile : Obligations.RoundKeyWindowShowsTheFile := fun _ =>
  ⟨rfl, fun hk _ => if_pos hk⟩

/-- Settles O16: after reset no register is written, so each reads what is drawn at its offset. -/
theorem unwrittenRegisterReadsAsFreeValue : Obligations.UnwrittenRegisterReadsAsFreeValue := by
  intro cfg n i j s
  have hread : ∀ draw, (unwrittenQuad.get i).read draw = draw := by simp
  exact ⟨hread _, hread _, hread _, rfl, rfl, rfl, rfl,
    fun h64 => ⟨readHi_w64 h64 .., readHi_w64 h64 ..⟩⟩

/-- Settles O53: memory lists nothing, no error stands, and the high halves are unwritten. -/
theorem resetMeetsTheInvariant : Obligations.ResetMeetsTheInvariant := fun _ =>
  ⟨rfl, rfl, fun h => absurd rfl h, fun _ => ⟨rfl, rfl⟩⟩

/-- Settles O56: the flags of the reset state, and what the registers read that R42 gives a
value. -/
theorem resetValues : Obligations.ResetValues := fun _ =>
  ⟨rfl, rfl, rfl, rfl, rfl, fun h32 => readReg_hi_w32 h32⟩

end Sys2Proof.Machine
end

section
/-! SUPPORT. The invariant of the whole machine: each named update of State keeps it and the
parameters (20_memory.md R51; 60_exceptions.md R203, R207; 10_state.md R29; 00_scope.md R7). -/

namespace Sys2Proof.Machine

/-- The step from `s` to `t` keeps the invariant and the parameters. -/
structure State.KeepsInv (s t : State) : Prop where
  cfg : t.cfg = s.cfg
  inv : s.Inv → t.Inv

theorem State.KeepsInv.refl (s : State) : s.KeepsInv s := ⟨rfl, id⟩

theorem State.KeepsInv.trans {s t u : State} (h : s.KeepsInv t) (h' : t.KeepsInv u) :
    s.KeepsInv u :=
  ⟨h'.cfg.trans h.cfg, h'.inv ∘ h.inv⟩

theorem succeed_keepsInv (s : State) : s.KeepsInv s.succeed :=
  ⟨rfl, fun ⟨hwf, hbelow, _, hhi⟩ => ⟨hwf, hbelow, fun hne => absurd rfl hne, hhi⟩⟩

theorem raiseError_keepsInv (c : ErrCode) (s : State) : s.KeepsInv (s.raiseError c) :=
  ⟨rfl, fun ⟨hwf, hbelow, _, hhi⟩ => ⟨hwf, hbelow, fun _ => rfl, hhi⟩⟩

theorem installKey_keepsInv (s : State) : s.KeepsInv s.installKey := ⟨rfl, id⟩

theorem writeDout_keepsInv (y : Block) (s : State) : s.KeepsInv (s.writeDout y) := ⟨rfl, id⟩

theorem pop_keepsInv (rest : List HostOp) (s : State) : s.KeepsInv (s.pop rest) := ⟨rfl, id⟩

theorem deliver_keepsInv (v : Word) (s : State) : s.KeepsInv (s.deliver v) := ⟨rfl, id⟩

theorem resetEngine_keepsInv (s : State) : s.KeepsInv s.resetEngine :=
  ⟨rfl, fun ⟨hwf, hbelow, _, _⟩ =>
    ⟨hwf, hbelow, fun hne => absurd rfl hne, fun _ => ⟨rfl, rfl⟩⟩⟩

/-- Writes inside the memory space keep the invariant (20_memory.md R51). -/
theorem withMem_keepsInv {s : State} {m : Memory} {lo hi : Nat} (h : Touches lo hi s.mem m)
    (hhi : hi ≤ s.cfg.space) : s.KeepsInv { s with mem := m } :=
  ⟨rfl, fun ⟨hwf, hbelow, herr, hreg⟩ => ⟨h.wf hwf, h.below _ hhi hbelow, herr, hreg⟩⟩

/-- A register write leaves SRC_HI and DST_HI alone when ADDR_W = 32 (10_state.md R29, R32). -/
theorem writeReg_keepsInv (r : RegName) (v : Word) (s : State) : s.KeepsInv (s.writeReg r v) := by
  refine ⟨by simp, fun ⟨hwf, hbelow, herr, hhi⟩ => ⟨by simpa, by simpa, by simpa, fun h32 => ?_⟩⟩
  rw [State.writeReg_cfg] at h32
  by_cases hr : r = .srcHi ∨ r = .dstHi
  · have hkeep : s.writeReg r v = s := by
      rcases hr with rfl | rfl
      · exact (writeReg_hi_w32 h32 v).1
      · exact (writeReg_hi_w32 h32 v).2
    rw [hkeep]
    exact hhi h32
  · rw [not_or] at hr
    rw [srcHi_writeReg_of_ne v s hr.1, dstHi_writeReg_of_ne v s hr.2]
    exact hhi h32

/-- An ENCN whose destination fits the memory space keeps the invariant, whether its accesses are
admitted or not. -/
theorem runBatch_keepsInv {src dst n : Nat} {s : State} (h : dst + 16 * n ≤ s.cfg.space) :
    s.KeepsInv (s.runBatch src dst n) := by
  have htouches := runBatch_touches src dst n s
  rcases runBatch_eq src dst n s with ⟨m, _, e⟩ | ⟨_, e⟩ <;> rw [e] at htouches ⊢
  · exact (withMem_keepsInv htouches h).trans (succeed_keepsInv _)
  · exact (withMem_keepsInv htouches h).trans (raiseError_keepsInv .mem _)

/-- An address is one of the 2^ADDR_W of the memory space (10_state.md R29). -/
theorem address_lt_space (cfg : Config) (hi lo : Word) : address cfg hi lo < cfg.space := by
  cases h : cfg.addrW with
  | w32 =>
    rw [address_w32 h]
    simpa [Config.space, addrBits, h] using lo.isLt
  | w64 =>
    rw [address_w64 h]
    simpa [Config.space, addrBits, h] using (hi ++ lo).isLt

/-- An abandoned command leaves unspecified only bytes of the memory space (log 6). -/
theorem abandon_keepsInv (w : Word) (s : State) : s.KeepsInv (s.abandon w) := by
  unfold State.abandon
  split
  · have hdst : s.dstAddr < s.cfg.space := address_lt_space ..
    exact withMem_keepsInv (scramble_touches s _ _) (by omega)
  · exact .refl s

/-! #### Commands, host operations, steps -/

theorem execEncn_keepsInv {n : Nat} {s t : State} (h : execEncn n s = .next t) : s.KeepsInv t := by
  rcases execEncn_next h with
    ⟨_, rfl⟩ | ⟨_, _, rfl⟩ | ⟨_, _, _, rfl⟩ | ⟨_, _, _, _, rfl⟩ | ⟨_, _, _, htop, _, _, rfl⟩
  · exact raiseError_keepsInv ..
  · exact raiseError_keepsInv ..
  · exact succeed_keepsInv s
  · exact raiseError_keepsInv ..
  · exact runBatch_keepsInv (passesTop_eq_false.mp htop).2

theorem exec_keepsInv {i : Instr} {s t : State} (h : exec i s = .next t) : s.KeepsInv t := by
  cases i with
  | keyset n =>
    rcases execKeyset_eq n s with ⟨_, e⟩ | ⟨_, e⟩ <;> cases e.symm.trans h
    · exact raiseError_keepsInv ..
    · exact (installKey_keepsInv s).trans (succeed_keepsInv _)
  | enc n =>
    rcases execEnc_eq n s with ⟨_, e⟩ | ⟨_, _, e⟩ | ⟨_, _, e⟩ <;> cases e.symm.trans h
    · exact raiseError_keepsInv ..
    · exact raiseError_keepsInv ..
    · exact (writeDout_keepsInv _ s).trans (succeed_keepsInv _)
  | dec n =>
    rcases execDec_eq n s with ⟨_, e⟩ | ⟨_, _, e⟩ | ⟨_, _, e⟩ <;> cases e.symm.trans h
    · exact raiseError_keepsInv ..
    · exact raiseError_keepsInv ..
    · exact (writeDout_keepsInv _ s).trans (succeed_keepsInv _)
  | encn n => exact execEncn_keepsInv h

theorem runCommand_keepsInv {w : Word} {s t : State} (h : runCommand w s = .next t) :
    s.KeepsInv t := by
  rcases runCommand_next h with ⟨i, _, hexec⟩ | ⟨_, rfl⟩
  · exact exec_keepsInv hexec
  · exact raiseError_keepsInv ..

theorem serve_keepsInv {op : HostOp} {s t : State} (h : serve op s = .next t) : s.KeepsInv t := by
  rcases serve_next h with
    ⟨_, v, _, _, hrun⟩ | ⟨_, v, r, _, _, _, rfl⟩ | ⟨_, _, _, _, _, _, rfl⟩ | ⟨_, _, _, _, rfl⟩ |
    ⟨a, b, _, ha, rfl⟩ | ⟨_, _, _, rfl⟩ | ⟨_, rfl⟩ | ⟨w, _, rfl⟩
  · exact runCommand_keepsInv hrun
  · exact writeReg_keepsInv r v s
  · exact .refl _
  · exact deliver_keepsInv ..
  · exact withMem_keepsInv (writeBytes_touches s.mem a [b]) ha
  · exact deliver_keepsInv ..
  · exact resetEngine_keepsInv s
  · exact (abandon_keepsInv w s).trans (resetEngine_keepsInv _)

theorem step_keepsInv {s t : State} (h : step s = .next t) : s.KeepsInv t := by
  cases hp : s.pending with
  | nil =>
    cases (step_nil hp).symm.trans h
    exact .refl s
  | cons op rest => exact (pop_keepsInv rest s).trans (serve_keepsInv ((step_cons hp).symm.trans h))

end Sys2Proof.Machine
end

section
/-! SUPPORT. The table form of T is T, and the vector engine is the scalar engine in every lane
(40_round_primitives.md R108 to R110; 43_vector_engine.md R166, R167, R172). -/

namespace Sys2Proof.Machine

/-! #### Rotations and L -/

theorem rotl32_xor (x y : Word) {n : Nat} (hn : n < 32) :
    rotl32 (x ^^^ y) n = rotl32 x n ^^^ rotl32 y n := by
  apply BitVec.eq_of_getLsbD_eq
  intro i hi
  simp only [BitVec.getLsbD_xor, rotl32_getLsbD _ hn hi]

theorem rotl32_comm (x : Word) {m n : Nat} (hm : m < 32) (hn : n < 32) :
    rotl32 (rotl32 x m) n = rotl32 (rotl32 x n) m := by
  apply BitVec.eq_of_getLsbD_eq
  intro i hi
  rw [rotl32_getLsbD _ hn hi, rotl32_getLsbD _ hm (Nat.mod_lt _ (by decide)),
    rotl32_getLsbD _ hm hi, rotl32_getLsbD _ hn (Nat.mod_lt _ (by decide))]
  congr 1
  omega

/-- L distributes over XOR (40_round_primitives.md R108). -/
theorem linL_xor (x y : Word) : linL (x ^^^ y) = linL x ^^^ linL y := by
  simp only [linL, rotl32_xor _ _ (show 2 < 32 by decide), rotl32_xor _ _ (show 10 < 32 by decide),
    rotl32_xor _ _ (show 18 < 32 by decide), rotl32_xor _ _ (show 24 < 32 by decide)]
  ac_rfl

/-- L commutes with rotations (40_round_primitives.md R108). -/
theorem linL_rotl32 (x : Word) {n : Nat} (hn : n < 32) : linL (rotl32 x n) = rotl32 (linL x) n := by
  simp only [linL, rotl32_xor _ _ hn, rotl32_comm x (show 2 < 32 by decide) hn,
    rotl32_comm x (show 10 < 32 by decide) hn, rotl32_comm x (show 18 < 32 by decide) hn,
    rotl32_comm x (show 24 < 32 by decide) hn]

theorem linL_rotr32 (x : Word) (n : Nat) : linL (rotr32 x n) = rotr32 (linL x) n :=
  linL_rotl32 x (Nat.mod_lt _ (by decide))

/-! #### The table form of T -/

/-- A byte at the top of a word. -/
def topByte (b : Byte) : Word := b.setWidth 32 <<< 24

/-- Every table entry is L of the substituted byte in the top byte (40_round_primitives.md R109). -/
theorem tt_eq_linL (b : Byte) : tt b = linL (topByte (sbox b)) := by
  revert b
  decide +kernel

/-- A word is its four bytes, each rotated from the top to its place. -/
theorem be32_eq_xor (b : Quad Byte) :
    be32 b = topByte b.w0 ^^^ rotr32 (topByte b.w1) 8 ^^^ rotr32 (topByte b.w2) 16 ^^^
      rotr32 (topByte b.w3) 24 := by
  apply BitVec.eq_of_getLsbD_eq
  intro i hi
  interval_cases i <;> simp [be32, topByte, rotr32, rotl32]

/-- The four lookups give T (40_round_primitives.md R110). -/
theorem tTab_eq_roundT (x : Word) : tTab x = roundT x := by
  simp only [tTab, tt_eq_linL, roundT, tau, be32_eq_xor, linL_xor, linL_rotr32]

/-! #### The lanes of the vector engine -/

/-- The four words of a lane of four lane-vectors. -/
def laneBlock (v : Quad (Lanes Word)) (j : Fin 8) : Block := v.map fun u => u.get j

/-- The vector transform is T in every lane (43_vector_engine.md R166). -/
@[simp] theorem vectorT_get (a : Lanes Word) (j : Fin 8) :
    (vectorT a).get j = roundT (a.get j) := by
  rw [← tTab_eq_roundT]
  simp [vectorT, gatherTT, laneIndex, tTab]

/-- A vector round is the scalar round in every lane (43_vector_engine.md R167). -/
@[simp] theorem laneBlock_vectorRound (v : Quad (Lanes Word)) (k : Word) (j : Fin 8) :
    laneBlock (vectorRound v k) j = cipherRound (laneBlock v j) k := by
  simp [laneBlock, vectorRound, cipherRound, Quad.map, Quad.shiftIn]

theorem laneBlock_foldl_vectorRound (rk : List Word) (v : Quad (Lanes Word)) (j : Fin 8) :
    laneBlock (rk.foldl vectorRound v) j = rk.foldl cipherRound (laneBlock v j) := by
  induction rk generalizing v with
  | nil => rfl
  | cons k rk ih => simp [ih]

theorem laneBlock_transpose (p : Lanes ByteBlock) (j : Fin 8) :
    laneBlock (transpose p) j = (p.get j).words := by
  simp [laneBlock, transpose, ByteBlock.words, Quad.map]

theorem untranspose_get (w : Quad (Lanes Word)) (j : Fin 8) :
    (untranspose w).get j = Block.bytes (laneBlock w j) := by
  simp [laneBlock, untranspose, Block.bytes, Quad.map]

/-- VENC8 encrypts each of its eight blocks (43_vector_engine.md R172). -/
theorem venc8_get (rk : List Word) (p : Lanes ByteBlock) (j : Fin 8) :
    (venc8 rk p).get j = Block.bytes (encryptBlock rk (p.get j).words) := by
  have hrev : ∀ w : Quad (Lanes Word), laneBlock w.reverse j = (laneBlock w j).reverse :=
    fun _ => rfl
  rw [venc8, untranspose_get, hrev, laneBlock_foldl_vectorRound, laneBlock_transpose, encryptBlock,
    crypt]

end Sys2Proof.Machine
end

section
/-! SUPPORT. What ENCN's loops leave in memory: after the blocks below j, those of the destination
are the encryptions of the source and nothing else has changed (20_memory.md R63, R64; 44_batch.md
R180, R183, R184). -/

namespace Sys2Proof.Machine

/-! #### Blocks of memory -/

theorem readBytes_writeBytes {m : Memory} (hm : Memory.wf m = true) (a : Nat)
    (l : List Byte) : Memory.readBytes (Memory.writeBytes m a l) a l.length = l := by
  induction l generalizing m a with
  | nil => rfl
  | cons b l ih =>
    have hhead : Memory.readByte (Memory.writeBytes m a (b :: l)) a = b := by
      rw [Memory.readByte_writeBytes _ _ _ hm, if_pos (by simp), Nat.sub_self, List.getD_cons_zero]
    rw [List.length_cons, Memory.readBytes, hhead, Memory.writeBytes,
      ih (Memory.wf_writeByte a b hm)]

/-- A stored block is read back. -/
theorem blockAt_writeBytes {m : Memory} (hm : Memory.wf m = true) (base k : Nat) (b : ByteBlock) :
    blockAt (Memory.writeBytes m (base + 16 * k) b.toList) base k = b := by
  have h := readBytes_writeBytes hm (base + 16 * k) b.toList
  rw [ByteBlock.toList_length] at h
  rw [blockAt, h, ByteBlock.ofList_toList]

/-- Writes outside a block leave it. -/
theorem Touches.blockAt_eq {lo hi base k : Nat} {m m' : Memory} (h : Touches lo hi m m')
    (hm : Memory.wf m = true) (hout : base + 16 * k + 16 ≤ lo ∨ hi ≤ base + 16 * k) :
    blockAt m' base k = blockAt m base k := by
  rw [blockAt, blockAt, Memory.readBytes_congr fun x _ _ => h.frame hm x (by omega)]

/-- A load of block k answers that block. -/
theorem eq_blockAt_of_loadBlock {cfg : Config} {m : Memory} {base k : Nat} {b : ByteBlock}
    (h : loadBlock cfg m (base + 16 * k) = some b) : b = blockAt m base k :=
  (loadBlock_eq_some.mp h).2

/-- The loads of a group answer the eight blocks from block 8g on (44_batch.md R183). -/
theorem loadGroup_get {cfg : Config} {m : Memory} {base g : Nat} {p : Lanes ByteBlock}
    (h : loadGroup cfg m (base + 128 * g) = some p) (j : Fin 8) :
    p.get j = blockAt m base (8 * g + j) := by
  simp only [loadGroup, Option.bind_eq_bind, Option.bind_eq_some_iff, loadBlock_eq_some] at h
  obtain ⟨b0, ⟨_, h0⟩, b1, ⟨_, h1⟩, b2, ⟨_, h2⟩, b3, ⟨_, h3⟩, b4, ⟨_, h4⟩, b5, ⟨_, h5⟩,
    b6, ⟨_, h6⟩, b7, ⟨_, h7⟩, hp⟩ := h
  cases hp
  have haddr : base + 16 * (8 * g + j) = base + 128 * g + 16 * j := by omega
  rw [blockAt, haddr]
  fin_cases j <;> assumption

/-- The stores of consecutive blocks leave those blocks. -/
theorem storeBlocks_blockAt {cfg : Config} {base : Nat} (l : List ByteBlock) :
    ∀ {m m' : Memory} {a : Nat}, Memory.wf m = true →
      storeBlocks cfg m (base + 16 * a) l = some m' →
      ∀ {i : Nat} {b : ByteBlock}, l[i]? = some b → blockAt m' base (a + i) = b := by
  induction l with
  | nil => simp
  | cons c l ih =>
    intro m m' a hm h i b hi
    obtain ⟨m1, h1, h2⟩ := Option.bind_eq_some_iff.mp h
    have hm1 : Memory.wf m1 = true := (storeBlock_touches h1).wf hm
    rw [show base + 16 * a + 16 = base + 16 * (a + 1) by omega] at h2
    cases i with
    | zero =>
      cases hi
      rw [(storeBlocks_touches l h2).blockAt_eq hm1 (by omega), (storeBlock_eq_some.mp h1).2]
      exact blockAt_writeBytes hm base a c
    | succ i =>
      rw [show a + (i + 1) = a + 1 + i by omega]
      exact ih hm1 h2 (by simpa using hi)

theorem Lanes.toList_getElem? {α : Type} (v : Lanes α) (j : Fin 8) :
    v.toList[j.val]? = some (v.get j) := by
  fin_cases j <;> rfl

/-! #### The loops -/

/-- The encryption of source block k as memory `m` holds it (20_memory.md R64). -/
def encryptedBlock (rk : List Word) (m : Memory) (src k : Nat) : ByteBlock :=
  Block.bytes (encryptBlock rk (blockAt m src k).words)

/-- From `m` to `m'` the destination blocks a, …, b - 1 became the encryptions of the source blocks
and no other byte changed. -/
structure EncryptsBlocks (rk : List Word) (src dst a b : Nat) (m m' : Memory) : Prop where
  touches : Touches (dst + 16 * a) (dst + 16 * b) m m'
  blocks : ∀ k, a ≤ k → k < b → blockAt m' dst k = encryptedBlock rk m src k

/-- Buffers that share no byte lie one after the other (20_memory.md R62). -/
theorem sameOrDisjoint_iff {src dst n : Nat} :
    sameOrDisjoint src dst n ↔ src = dst ∨ src + 16 * n ≤ dst ∨ dst + 16 * n ≤ src := by
  refine or_congr_right ⟨fun h => ?_, fun h a => by omega⟩
  have hsrc := h src
  have hdst := h dst
  omega

section
variable {cfg : Config} {rk : List Word} {src dst n a b c : Nat} {m m' m'' : Memory}

theorem EncryptsBlocks.refl : EncryptsBlocks rk src dst a a m m :=
  ⟨.refl .., fun k h1 h2 => by omega⟩

/-- Writing other blocks of the destination leaves source block k (20_memory.md R62, R64). -/
theorem encryptedBlock_eq (hsd : sameOrDisjoint src dst n) (hm : Memory.wf m = true) {k : Nat}
    (h : Touches (dst + 16 * a) (dst + 16 * b) m m') (hbk : b ≤ k) (hk : k < n) :
    encryptedBlock rk m' src k = encryptedBlock rk m src k := by
  have hsd := sameOrDisjoint_iff.mp hsd
  rw [encryptedBlock, encryptedBlock, h.blockAt_eq hm (by omega)]

/-- Encrypting the blocks from a to b and then those from b to c encrypts those from a to c, as no
source block is overwritten before it is read (20_memory.md R63, R64). -/
theorem EncryptsBlocks.trans (hsd : sameOrDisjoint src dst n) (hm : Memory.wf m = true)
    (hab : a ≤ b) (hbc : b ≤ c) (hc : c ≤ n) (h : EncryptsBlocks rk src dst a b m m')
    (h' : EncryptsBlocks rk src dst b c m' m'') : EncryptsBlocks rk src dst a c m m'' where
  touches := (h.touches.mono le_rfl (by omega)).trans (h'.touches.mono (by omega) le_rfl)
  blocks k hak hkc := by
    by_cases hkb : k < b
    · rw [h'.touches.blockAt_eq (h.touches.wf hm) (by omega), h.blocks k hak hkb]
    · rw [h'.blocks k (by omega) hkc,
        encryptedBlock_eq hsd hm h.touches (by omega) (by omega)]

/-- One scalar block (44_batch.md R184). -/
theorem runScalar_encrypts (hm : Memory.wf m = true) (h : runScalar cfg rk src dst b m = some m') :
    EncryptsBlocks rk src dst b (b + 1) m m' := by
  refine ⟨runScalar_touches h, fun k hbk hk => ?_⟩
  obtain rfl : k = b := by omega
  obtain ⟨x, hload, hstore⟩ := Option.bind_eq_some_iff.mp h
  rw [(storeBlock_eq_some.mp hstore).2, blockAt_writeBytes hm, eq_blockAt_of_loadBlock hload,
    encryptedBlock]

/-- One vector group, by the equality of the engines (44_batch.md R183). -/
theorem runGroup_encrypts {g : Nat} (hm : Memory.wf m = true)
    (h : runGroup cfg rk src dst g m = some m') :
    EncryptsBlocks rk src dst (8 * g) (8 * (g + 1)) m m' := by
  refine ⟨(runGroup_touches h).mono (by omega) (by omega), fun k hgk hk => ?_⟩
  obtain ⟨p, hload, hstore⟩ := Option.bind_eq_some_iff.mp h
  obtain ⟨j, rfl⟩ : ∃ j : Fin 8, k = 8 * g + j := ⟨⟨k - 8 * g, by omega⟩, by simp; omega⟩
  rw [show dst + 128 * g = dst + 16 * (8 * g) by omega] at hstore
  rw [storeBlocks_blockAt _ hm hstore (Lanes.toList_getElem? _ j), venc8_get, loadGroup_get hload,
    encryptedBlock]

/-- A loop whose turn i encrypts the blocks from w i to w (i + 1). -/
theorem memLoop_encrypts {w : Nat} {body : Nat → Memory → Option Memory}
    (hsd : sameOrDisjoint src dst n)
    (hbody : ∀ {i : Nat} {u u' : Memory}, Memory.wf u = true → body i u = some u' →
      EncryptsBlocks rk src dst (w * i) (w * (i + 1)) u u') (count : Nat) :
    ∀ {a : Nat} {m m' : Memory}, Memory.wf m = true → w * (a + count) ≤ n →
      memLoop body a count m = some m' →
      EncryptsBlocks rk src dst (w * a) (w * (a + count)) m m' := by
  induction count with
  | zero =>
    intro a m m' _ _ h
    cases h
    exact .refl
  | succ count ih =>
    intro a m m' hm hn h
    obtain ⟨m1, h1, h2⟩ := Option.bind_eq_some_iff.mp h
    have hturn := hbody hm h1
    rw [show a + (count + 1) = a + 1 + count by omega] at hn ⊢
    exact hturn.trans hsd hm (Nat.mul_le_mul_left w (by omega)) (Nat.mul_le_mul_left w (by omega))
      hn (ih (hturn.touches.wf hm) hn h2)

/-- ENCN's loops encrypt the whole buffer, whatever the path (20_memory.md R64; 44_batch.md
R186). -/
theorem encryptBuffer_encrypts (hsd : sameOrDisjoint src dst n) (hm : Memory.wf m = true)
    (h : encryptBuffer cfg rk src dst n m = some m') : EncryptsBlocks rk src dst 0 n m m' := by
  obtain ⟨m1, h1, h2⟩ := Option.bind_eq_some_iff.mp h
  have hg := groupCount_le src dst n
  have hgroups := memLoop_encrypts (w := 8) hsd runGroup_encrypts _ hm (by omega) h1
  have hblocks := memLoop_encrypts (rk := rk) (w := 1) hsd
    (by simpa only [Nat.one_mul] using @runScalar_encrypts cfg rk src dst) _
    (hgroups.touches.wf hm) (by omega) h2
  rw [Nat.mul_zero, Nat.zero_add] at hgroups
  rw [Nat.one_mul, Nat.one_mul, Nat.add_sub_cancel' hg] at hblocks
  exact hgroups.trans hsd hm (Nat.zero_le _) hg le_rfl hblocks

end

end Sys2Proof.Machine
end

section
/-! SUPPORT. The checks of ENCN as rules about its buffers, what a next state of ENCN shows, and the
host's memory operations (20_memory.md R59, R61, R62, R64; 30_encoding.md R79). -/

namespace Sys2Proof.Machine

/-! #### The checks of ENCN -/

theorem partlyOverlap_eq_false {src dst n : Nat} :
    partlyOverlap src dst n = false ↔ sameOrDisjoint src dst n := by
  rw [sameOrDisjoint_iff, ← Bool.not_eq_true]
  simp only [partlyOverlap, Bool.and_eq_true, bne_iff_ne, decide_eq_true_eq]
  omega

theorem touchesDevice_eq_false {cfg : Config} {lo hi : Nat} :
    cfg.touchesDevice lo hi = false ↔
      ∀ a, lo ≤ a ∧ a < hi → ∀ r ∈ cfg.device, ¬ (r.lo ≤ a ∧ a < r.hi) := by
  simp only [Config.touchesDevice, List.any_eq_false, decide_eq_true_eq]
  constructor
  · intro h a ha r hr hmem
    exact h r hr (by omega)
  · intro h r hr hlt
    exact h (max r.lo lo) (by omega) r hr (by omega)

theorem onDevice_eq_false {cfg : Config} {src dst n : Nat} :
    onDevice cfg src dst n = false ↔ plainBuffers cfg src dst n := by
  simp only [onDevice, Bool.or_eq_false_iff, touchesDevice_eq_false, plainBuffers, or_imp,
    forall_and]

section
variable {s : State}

/-- With a valid key and N > 0 the range and overlap checks come before any access (20_memory.md
R61, R62). -/
theorem execEncn_range (hk : s.keyValid = true) (hn : s.blockCount ≠ 0)
    (h : ¬ fitsSpace s.cfg s.srcAddr s.dstAddr s.blockCount ∨
      ¬ sameOrDisjoint s.srcAddr s.dstAddr s.blockCount) :
    execEncn 16 s = .next (s.raiseError .range) := by
  rw [fitsSpace, ← passesTop_eq_false, ← partlyOverlap_eq_false, Bool.not_eq_false,
    Bool.not_eq_false] at h
  rcases h with h | h <;> simp [execEncn, hk, hn, h]

/-- Behind those checks ENCN is refused on memory that is not plain, and else runs (20_memory.md
R59; 44_batch.md R180). -/
theorem execEncn_of_checks (hk : s.keyValid = true) (hn : s.blockCount ≠ 0)
    (hfit : fitsSpace s.cfg s.srcAddr s.dstAddr s.blockCount)
    (hsd : sameOrDisjoint s.srcAddr s.dstAddr s.blockCount) :
    execEncn 16 s = if onDevice s.cfg s.srcAddr s.dstAddr s.blockCount = true then
        .refused .notPlainMemory
      else .next (s.runBatch s.srcAddr s.dstAddr s.blockCount) := by
  simp [execEncn, hk, hn, passesTop_eq_false.mpr hfit, partlyOverlap_eq_false.mpr hsd]

end

/-! #### What a next state of ENCN shows -/

section
variable {s t : State} {n : Nat}

theorem runBatch_err (src dst n : Nat) (s : State) :
    (s.runBatch src dst n).err = .ok ∨ (s.runBatch src dst n).err = .mem := by
  rcases runBatch_eq src dst n s with ⟨m, _, e⟩ | ⟨_, e⟩ <;> simp [e]

/-- ENCN writes only its destination range, whatever its outcome (20_memory.md R51). -/
theorem execEncn_touches (h : execEncn n s = .next t) :
    Touches s.dstAddr (s.dstAddr + 16 * s.blockCount) s.mem t.mem := by
  rcases execEncn_next h with
    ⟨_, rfl⟩ | ⟨_, _, rfl⟩ | ⟨_, _, _, rfl⟩ | ⟨_, _, _, _, rfl⟩ | ⟨_, _, _, _, _, _, rfl⟩
  · exact .refl ..
  · exact .refl ..
  · exact .refl ..
  · exact .refl ..
  · exact runBatch_touches ..

/-- ENCN reaches memory only where it ends with ERR = 0 or MEM (60_exceptions.md R203). -/
theorem execEncn_mem_of_err (h : execEncn n s = .next t) (hok : t.err ≠ .ok) (hmem : t.err ≠ .mem) :
    t.mem = s.mem := by
  rcases execEncn_next h with
    ⟨_, rfl⟩ | ⟨_, _, rfl⟩ | ⟨_, _, _, rfl⟩ | ⟨_, _, _, _, rfl⟩ | ⟨_, _, _, _, _, _, rfl⟩
  · rfl
  · rfl
  · rfl
  · rfl
  · exact ((runBatch_err ..).elim hok hmem).elim

/-- ENCN that ends with ERR = 0 has encrypted its buffer (20_memory.md R64). -/
theorem execEncn_encrypts (hm : Memory.wf s.mem = true) (h : execEncn n s = .next t)
    (hok : t.err = .ok) :
    EncryptsBlocks s.encKeys s.srcAddr s.dstAddr 0 s.blockCount s.mem t.mem := by
  rcases execEncn_next h with
    ⟨_, rfl⟩ | ⟨_, _, rfl⟩ | ⟨_, _, h0, rfl⟩ | ⟨_, _, _, _, rfl⟩ | ⟨_, _, _, _, hov, _, rfl⟩
  · cases hok
  · cases hok
  · rw [h0]
    exact .refl
  · cases hok
  · rcases runBatch_eq s.srcAddr s.dstAddr s.blockCount s with ⟨m, hbuf, e⟩ | ⟨_, e⟩ <;>
      rw [e] at hok ⊢
    · exact encryptBuffer_encrypts (partlyOverlap_eq_false.mp hov) hm hbuf
    · cases hok

end

/-! #### The host's memory operations -/

section
variable {s : State} {a : Nat} {b : Byte} {rest : List HostOp}

theorem step_memWrite (hp : s.pending = .memWrite a b :: rest) :
    step s = if a < s.cfg.space then
        .next { s.pop rest with mem := Memory.writeByte s.mem a b }
      else .fault .noSuchAddress :=
  step_cons hp

theorem step_memRead (hp : s.pending = .memRead a :: rest) :
    step s = if a < s.cfg.space then
        .next ((s.pop rest).deliver ((Memory.readByte s.mem a).setWidth 32))
      else .fault .noSuchAddress :=
  step_cons hp

/-- No register reads memory (10_state.md R24 to R31). -/
@[simp] theorem readReg_withMem (m : Memory) (s : State) (r : RegName) :
    { s with mem := m }.readReg r = s.readReg r := by
  cases r <;> rfl

end

end Sys2Proof.Machine
end

section
/-! The obligations of 20_memory.md: the invariant, the rules of ENCN's buffers and the host's memory
operations. -/

namespace Sys2Proof.Machine

/-- Settles O52, by what each host operation keeps. -/
theorem stepKeepsTheInvariant : Obligations.StepKeepsTheInvariant := fun _ _ hinv h =>
  ⟨(step_keepsInv h).inv hinv, (step_keepsInv h).cfg⟩

/-- Settles O39: the checks come first, and behind them ENCN ends with ERR = 0 or MEM. -/
theorem encnRangeAndOverlapRule : Obligations.EncnRangeAndOverlapRule := by
  refine fun s hk hn => ⟨execEncn_range hk hn, fun hfit hsd t h => ?_⟩
  have hrun := (execEncn_of_checks hk hn hfit hsd).symm.trans h
  split at hrun
  · cases hrun
  · cases hrun
    rcases runBatch_err s.srcAddr s.dstAddr s.blockCount s with e | e <;> simp [e]

/-- Settles O40, by the blocks the loops leave. -/
theorem encnResultIsTheEncryptionOfTheSource :
    Obligations.EncnResultIsTheEncryptionOfTheSource := fun _ _ _ hm h hok k hk =>
  (execEncn_encrypts hm h hok).blocks k (Nat.zero_le k) hk

/-- Settles O44: buffers that are not plain touch a device range. -/
theorem encnOnDeviceMemoryIsRefused : Obligations.EncnOnDeviceMemoryIsRefused := by
  intro s hk hn hfit hsd hplain
  rw [← onDevice_eq_false, Bool.not_eq_false] at hplain
  exact (execEncn_of_checks hk hn hfit hsd).trans (if_pos hplain)

/-- Settles O46, by the range ENCN's writes lie in. -/
theorem encnChangesOnlyTheDestination : Obligations.EncnChangesOnlyTheDestination :=
  fun _ _ _ hm h => ⟨(execEncn_touches h).frame hm, execEncn_mem_of_err h⟩

/-- Settles O59, by a read after a write of the canonical memory. -/
theorem hostMemoryBytesAreStoredAndRead : Obligations.HostMemoryBytesAreStoredAndRead := by
  intro s a b rest hm
  refine ⟨fun hp => ⟨fun ha => ?_, fun ha => ?_⟩, fun hp => ⟨fun ha => ?_, fun ha => ?_⟩⟩
  · refine ⟨_, (step_memWrite hp).trans (if_pos ha), ?_, fun x hx => ?_, readReg_withMem _ _⟩
    · rw [Memory.readByte_writeByte a b a hm, if_pos rfl]
    · rw [Memory.readByte_writeByte a b x hm, if_neg hx]
  · exact (step_memWrite hp).trans (if_neg (by omega))
  · exact (step_memRead hp).trans (if_pos ha)
  · exact (step_memRead hp).trans (if_neg (by omega))

end Sys2Proof.Machine
end

section
/-! SUPPORT. The fields of a command word: which words decode to which command, by field, and the
error every other word gives (30_encoding.md R71 to R78). -/

namespace Sys2Proof

/-! #### Bit fields -/

/-- A bit field is its shift and mask (30_encoding.md R78). -/
theorem bits_eq_shift_mask (w : Word) {hi : Nat} (hhi : hi < 32) (lo : Nat) :
    bits w hi lo = ((w >>> lo) &&& BitVec.ofNat 32 (2 ^ (hi + 1 - lo) - 1)).toNat := by
  have hpow : 2 ^ (hi + 1 - lo) ≤ 2 ^ 32 := Nat.pow_le_pow_right (by decide) (by omega)
  rw [BitVec.toNat_and, BitVec.toNat_ushiftRight, BitVec.toNat_ofNat,
    Nat.mod_eq_of_lt (by have := Nat.two_pow_pos (hi + 1 - lo); omega),
    Nat.and_two_pow_sub_one_eq_mod, Nat.shiftRight_eq_div_pow, bits]

theorem bits_31_16 (w : Word) : bits w 31 16 = (w >>> 16).toNat := by
  rw [bits, BitVec.toNat_ushiftRight, Nat.shiftRight_eq_div_pow]
  omega

theorem bits_15_8 (w : Word) : bits w 15 8 = ((w >>> 8) &&& 0xFF).toNat :=
  bits_eq_shift_mask w (by decide) 8

theorem bits_7_4 (w : Word) : bits w 7 4 = ((w >>> 4) &&& 0xF).toNat :=
  bits_eq_shift_mask w (by decide) 4

theorem bits_3_0 (w : Word) : bits w 3 0 = (w &&& 0xF).toNat := by
  simpa using bits_eq_shift_mask w (hi := 3) (by decide) 0

theorem bits_and (w m : Word) (hi lo : Nat) :
    bits (w &&& m) hi lo = bits w hi lo &&& bits m hi lo := by
  simp only [bits, BitVec.toNat_and, Nat.and_div_two_pow, Nat.and_mod_two_pow]

/-- The part of a field that a mask of ones keeps is the field. -/
theorem bits_and_ones (w : Word) (hi lo : Nat) :
    bits w hi lo &&& (2 ^ (hi + 1 - lo) - 1) = bits w hi lo := by
  rw [Nat.and_two_pow_sub_one_eq_mod, bits, Nat.mod_mod]

/-- RSV1, LEN, RSV0 and OP are the whole word (30_encoding.md R71). -/
theorem word_eq_iff_bits {v w : Word} :
    v = w ↔ bits v 31 16 = bits w 31 16 ∧ bits v 15 8 = bits w 15 8 ∧ bits v 7 4 = bits w 7 4 ∧
      bits v 3 0 = bits w 3 0 := by
  rw [← BitVec.toNat_inj]
  have hv := v.isLt
  have hw := w.isLt
  simp only [bits]
  omega

/-! #### Which words decode -/

/-- The decoder, by field (30_encoding.md R78). -/
theorem decode_eq_ok_iff {w : Word} {i : Instr} :
    decode w = .ok i ↔
      bits w 31 16 = 0 ∧ bits w 7 4 = 0 ∧ bits w 3 0 = i.op ∧ bits w 15 8 = i.len := by
  constructor
  · intro h
    unfold decode at h
    split at h
    · cases h
    · rename_i hrsv
      split at h <;> cases h <;> simp_all [Instr.op, Instr.len]
  · rintro ⟨hrsv1, hrsv0, hop, hlen⟩
    cases i <;> simp_all [decode, Instr.op, Instr.len]

/-- The same with each field taken by shift and mask. -/
theorem decode_eq_ok_iff_shift_mask {w : Word} {i : Instr} :
    decode w = .ok i ↔ w >>> 16 = 0 ∧ (w >>> 4) &&& 0xF = 0 ∧ (w &&& 0xF).toNat = i.op ∧
      ((w >>> 8) &&& 0xFF).toNat = i.len := by
  have hzero : ∀ v : Word, v.toNat = 0 ↔ v = 0 := fun _ => BitVec.toNat_inj (y := 0)
  rw [decode_eq_ok_iff, bits_31_16, bits_15_8, bits_7_4, bits_3_0, hzero, hzero]

theorem Instr.wf_iff {i : Instr} : i.wf = true ↔ i.len ≤ 255 := decide_eq_true_iff

theorem Instr.op_bounds (i : Instr) : 1 ≤ i.op ∧ i.op ≤ 4 := by
  cases i <;> simp [Instr.op]

theorem encode_toNat {i : Instr} (h : i.wf = true) : (encode i).toNat = 256 * i.len + i.op := by
  have hop := i.op_bounds
  have hlen := Instr.wf_iff.mp h
  have hdisjoint : 256 * i.len + i.op = 256 * i.len ||| i.op :=
    Nat.two_pow_add_eq_or_of_lt (i := 8) (by omega) i.len
  rw [encode, BitVec.toNat_or, BitVec.toNat_shiftLeft, BitVec.toNat_ofNat, BitVec.toNat_ofNat,
    Nat.shiftLeft_eq, hdisjoint]
  congr 1 <;> omega

/-- The words that decode are the encodings of the well-formed commands (30_encoding.md R71,
R80). -/
theorem decode_eq_ok_iff_encode {w : Word} {i : Instr} :
    decode w = .ok i ↔ i.wf = true ∧ encode i = w := by
  have hop := i.op_bounds
  have hw := w.isLt
  simp only [decode_eq_ok_iff, bits]
  constructor
  · intro h
    have hwf : i.wf = true := Instr.wf_iff.mpr (by omega)
    exact ⟨hwf, BitVec.eq_of_toNat_eq (by rw [encode_toNat hwf]; omega)⟩
  · rintro ⟨hwf, rfl⟩
    have hlen := Instr.wf_iff.mp hwf
    rw [encode_toNat hwf]
    omega

/-- Encoding is one-to-one (30_encoding.md R71). -/
theorem encode_injOn : Set.InjOn encode {i | i.wf = true} := by
  intro i hi j hj heq
  have hdi := decode_eq_ok_iff_encode.mpr ⟨hi, heq⟩
  have hdj := decode_eq_ok_iff_encode.mpr ⟨hj, rfl⟩
  exact Except.ok.inj (hdi.symm.trans hdj)

/-! #### The opcode map -/

theorem matchWord_toNat (i : Instr) : i.matchWord.toNat = i.op := by
  cases i <;> rfl

/-- A command's row asks for its OP and for both reserved fields to be 0 (30_encoding.md R77). -/
theorem and_rowMask_eq_matchWord_iff {w : Word} {i : Instr} :
    w &&& rowMask = i.matchWord ↔ bits w 31 16 = 0 ∧ bits w 7 4 = 0 ∧ bits w 3 0 = i.op := by
  have hrange := i.op_bounds
  have hmatch : bits i.matchWord 31 16 = 0 ∧ bits i.matchWord 15 8 = 0 ∧
      bits i.matchWord 7 4 = 0 ∧ bits i.matchWord 3 0 = i.op := by
    simp only [bits, matchWord_toNat]
    omega
  obtain ⟨mrsv1, mlen, mrsv0, mop⟩ := hmatch
  have hrsv1 : bits (w &&& rowMask) 31 16 = bits w 31 16 :=
    (bits_and ..).trans (bits_and_ones w 31 16)
  have hlen : bits (w &&& rowMask) 15 8 = 0 := (bits_and ..).trans (Nat.and_zero _)
  have hrsv0 : bits (w &&& rowMask) 7 4 = bits w 7 4 :=
    (bits_and ..).trans (bits_and_ones w 7 4)
  have hop : bits (w &&& rowMask) 3 0 = bits w 3 0 :=
    (bits_and ..).trans (bits_and_ones w 3 0)
  rw [word_eq_iff_bits, hrsv1, hlen, hrsv0, hop, mrsv1, mlen, mrsv0, mop]
  simp

/-- A word that decodes has no reserved bit set (30_encoding.md R75). -/
theorem reserved_eq_zero_of_decode {w : Word} {i : Instr} (h : decode w = .ok i) :
    w &&& 0xFFFF00F0 = 0 := by
  obtain ⟨hrsv1, hrsv0, _⟩ := decode_eq_ok_iff.mp h
  rw [word_eq_iff_bits]
  simp only [bits_and, hrsv1, hrsv0, Nat.zero_and]
  exact ⟨rfl, Nat.and_zero _, rfl, Nat.and_zero _⟩

/-! #### How many words decode -/

/-- The command of a row of the opcode map, in the order of its OP, with a LEN. -/
def commandOfRow (row : Fin 4) (len : Nat) : Instr :=
  match row with
  | 0 => .keyset len
  | 1 => .enc len
  | 2 => .dec len
  | 3 => .encn len

@[simp] theorem len_commandOfRow (row : Fin 4) (len : Nat) : (commandOfRow row len).len = len := by
  fin_cases row <;> rfl

@[simp] theorem op_commandOfRow (row : Fin 4) (len : Nat) :
    (commandOfRow row len).op = row + 1 := by
  fin_cases row <;> rfl

theorem commandOfRow_injective : Function.Injective (Function.uncurry commandOfRow) := by
  rintro ⟨r, n⟩ ⟨r', n'⟩ h
  have hrow : r = r' := by simpa [Fin.val_inj] using congrArg Instr.op h
  have hlen : n = n' := by simpa using congrArg Instr.len h
  rw [hrow, hlen]

theorem exists_commandOfRow (i : Instr) : ∃ row, commandOfRow row i.len = i := by
  cases i with
  | keyset n => exact ⟨0, rfl⟩
  | enc n => exact ⟨1, rfl⟩
  | dec n => exact ⟨2, rfl⟩
  | encn n => exact ⟨3, rfl⟩

/-- Each LEN has four commands. -/
theorem ncard_instr_len (L : Finset Nat) : {i : Instr | i.len ∈ L}.ncard = 4 * L.card := by
  have himage : {i : Instr | i.len ∈ L} =
      Function.uncurry commandOfRow '' (Set.univ ×ˢ (L : Set Nat)) := by
    ext i
    constructor
    · intro hi
      obtain ⟨row, hrow⟩ := exists_commandOfRow i
      exact ⟨(row, i.len), ⟨trivial, hi⟩, hrow⟩
    · rintro ⟨⟨row, n⟩, ⟨_, hn⟩, rfl⟩
      simpa using hn
  rw [himage, Set.ncard_image_of_injective _ commandOfRow_injective, Set.ncard_prod,
    Set.ncard_univ, Nat.card_fin, Set.ncard_coe_finset]

/-- Each 8-bit LEN is carried by four words that decode (30_encoding.md R75). -/
theorem ncard_words_len {L : Finset Nat} (hL : ∀ n ∈ L, n ≤ 255) :
    {w : Word | ∃ i, decode w = .ok i ∧ i.len ∈ L}.ncard = 4 * L.card := by
  have hwf : ∀ i : Instr, i.len ∈ L → i.wf = true := fun i hi => Instr.wf_iff.mpr (hL _ hi)
  have hinj : Set.InjOn encode {i : Instr | i.len ∈ L} := encode_injOn.mono hwf
  have himage : {w : Word | ∃ i, decode w = .ok i ∧ i.len ∈ L} =
      encode '' {i : Instr | i.len ∈ L} := by
    ext w
    refine exists_congr fun i => ?_
    rw [decode_eq_ok_iff_encode]
    exact ⟨fun ⟨⟨_, hw⟩, hi⟩ => ⟨hi, hw⟩, fun ⟨hi, hw⟩ => ⟨⟨hwf i hi, hw⟩, hi⟩⟩
  rw [himage, hinj.ncard_image, ncard_instr_len]

end Sys2Proof

namespace Sys2Proof.Machine

/-! #### The outcome of a command word -/

/-- A word that is no command is Error(ILLEGAL_CMD) (30_encoding.md R74, R75, R77). -/
theorem runCommand_of_no_command {w : Word} (h : ∀ i, decode w ≠ .ok i) (s : State) :
    runCommand w s = .next (s.raiseError .illegalCmd) := by
  cases hd : decode w with
  | ok i => exact absurd hd (h i)
  | error e => exact runCommand_error hd s

/-- The LEN check comes first in every command (30_encoding.md R73). -/
theorem exec_of_len_ne {i : Instr} (h : i.len ≠ 16) (s : State) :
    exec i s = .next (s.raiseError .precondition) := by
  cases i <;> exact if_pos h

/-- PRECONDITION is the outcome of the LEN check alone (30_encoding.md R73, R75). -/
theorem exec_err_precondition_iff {i : Instr} {s t : State} (h : exec i s = .next t) :
    t.err = .precondition ↔ i.len ≠ 16 := by
  cases i with
  | keyset n =>
    rcases execKeyset_eq n s with ⟨hn, e⟩ | ⟨hn, e⟩ <;> cases e.symm.trans h <;>
      simp [Instr.len, hn]
  | enc n =>
    rcases execEnc_eq n s with ⟨hn, e⟩ | ⟨hn, _, e⟩ | ⟨hn, _, e⟩ <;> cases e.symm.trans h <;>
      simp [Instr.len, hn]
  | dec n =>
    rcases execDec_eq n s with ⟨hn, e⟩ | ⟨hn, _, e⟩ | ⟨hn, _, e⟩ <;> cases e.symm.trans h <;>
      simp [Instr.len, hn]
  | encn n =>
    rcases execEncn_next h with
      ⟨hn, rfl⟩ | ⟨hn, _, rfl⟩ | ⟨hn, _, _, rfl⟩ | ⟨hn, _, _, _, rfl⟩ | ⟨hn, _, _, _, _, _, rfl⟩
    · simp [Instr.len, hn]
    · simp [Instr.len, hn]
    · simp [Instr.len, hn]
    · simp [Instr.len, hn]
    · rcases runBatch_err s.srcAddr s.dstAddr s.blockCount s with e | e <;> simp [Instr.len, hn, e]

/-- KEYSET, ENC and DEC change at most STATUS, DOUT and RK (30_encoding.md R76). -/
theorem exec_registerCommand_frame {i : Instr} {n : Nat} {s t : State}
    (hi : i = .keyset n ∨ i = .enc n ∨ i = .dec n) (h : exec i s = .next t) :
    ∃ valid any code out keys, t =
      { s with keyValid := valid, anyErr := any, err := code, dout := out, rk := keys } := by
  rcases hi with rfl | rfl | rfl
  · rcases execKeyset_eq n s with ⟨_, e⟩ | ⟨_, e⟩ <;> cases e.symm.trans h <;>
      exact ⟨_, _, _, _, _, rfl⟩
  · rcases execEnc_eq n s with ⟨_, e⟩ | ⟨_, _, e⟩ | ⟨_, _, e⟩ <;> cases e.symm.trans h <;>
      exact ⟨_, _, _, _, _, rfl⟩
  · rcases execDec_eq n s with ⟨_, e⟩ | ⟨_, _, e⟩ | ⟨_, _, e⟩ <;> cases e.symm.trans h <;>
      exact ⟨_, _, _, _, _, rfl⟩

end Sys2Proof.Machine
end

section
/-! The obligations of 30_encoding.md: the decoder and the encoder, the words that are no command,
and the frame of the register commands. -/

namespace Sys2Proof.Machine

/-- Settles O1: both sides fix the word's four fields. -/
theorem decodeAndEncodeAgree : Obligations.DecodeAndEncodeAgree := fun _ _ =>
  decode_eq_ok_iff_encode

/-- Settles O2, by the fields of a word that decodes. -/
theorem decodeFollowsTheFields : Obligations.DecodeFollowsTheFields := by
  refine ⟨fun w i s hd hlen => (runCommand_ok hd s).trans (exec_of_len_ne hlen s),
    fun w => ⟨?_, ?_⟩⟩
  · intro hrsv i hd
    obtain ⟨hrsv1, hrsv0, _⟩ := decode_eq_ok_iff_shift_mask.mp hd
    exact hrsv.elim (absurd hrsv1) (absurd hrsv0)
  · intro hrsv1 hrsv0
    have hdecode : ∀ i : Instr, w &&& 0xF = BitVec.ofNat 32 i.op →
        ((w >>> 8) &&& 0xFF).toNat = i.len → decode w = .ok i := fun i hop hlen =>
      decode_eq_ok_iff_shift_mask.mpr ⟨hrsv1, hrsv0, by rw [hop]; cases i <;> rfl, hlen⟩
    refine ⟨fun hop => hdecode _ hop rfl, fun hop => hdecode _ hop rfl,
      fun hop => hdecode _ hop rfl, fun hop => hdecode _ hop rfl, fun h1 h2 h3 h4 i hd => ?_⟩
    obtain ⟨_, _, hop, _⟩ := decode_eq_ok_iff_shift_mask.mp hd
    cases i with
    | keyset n => exact h1 (BitVec.eq_of_toNat_eq hop)
    | enc n => exact h2 (BitVec.eq_of_toNat_eq hop)
    | dec n => exact h3 (BitVec.eq_of_toNat_eq hop)
    | encn n => exact h4 (BitVec.eq_of_toNat_eq hop)

/-- Settles O3: a row's match under the mask is the two reserved fields at 0 and the row's OP. -/
theorem decodeAgreesWithTheOpcodeMap : Obligations.DecodeAgreesWithTheOpcodeMap := by
  have hrow : ∀ (w : Word) (i : Instr),
      decode w = .ok i ↔ w &&& rowMask = i.matchWord ∧ i.len = ((w >>> 8) &&& 0xFF).toNat := by
    intro w i
    rw [and_rowMask_eq_matchWord_iff, decode_eq_ok_iff, bits_15_8, and_assoc, and_assoc,
      eq_comm (a := i.len)]
  exact ⟨hrow, fun w s hno => runCommand_of_no_command (fun i hd => hno i ((hrow w i).mp hd).1) s,
    rfl, rfl, rfl, rfl⟩

/-- Settles O5: a word that decodes has no reserved bit, and the words that decode are counted by
their LEN. -/
theorem reservedBitsAreIllegalAndWordsCounted :
    Obligations.ReservedBitsAreIllegalAndWordsCounted := by
  refine ⟨fun w s hrsv => runCommand_of_no_command
    (fun i hd => hrsv (reserved_eq_zero_of_decode hd)) s, ?_, ?_, fun w i s t hd h =>
      exec_err_precondition_iff ((runCommand_ok hd s).symm.trans h)⟩
  · have hlen : ∀ (w : Word) (i : Instr), decode w = .ok i → i.len ∈ Finset.range 256 :=
      fun w i hd => by simpa [Nat.lt_succ_iff, Instr.wf_iff] using (decode_eq_ok_iff_encode.mp hd).1
    have hcount := ncard_words_len (L := Finset.range 256) (by simp; omega)
    simpa only [and_iff_left_of_imp (hlen _ _), Finset.card_range] using hcount
  · simpa using ncard_words_len (L := {0x10}) (by simp)

/-- Settles O32, by the frame of the register commands and the writers of RK and DOUT. -/
theorem registerCommandsFrame : Obligations.RegisterCommandsFrame := by
  intro s t n i hi h
  obtain ⟨_, _, _, _, _, rfl⟩ := exec_registerCommand_frame hi h
  refine ⟨rfl, rfl, rfl, rfl, rfl, rfl, rfl, rfl, rfl, rfl, rfl, fun _ => rfl, fun hne => ?_, ?_⟩
  · refine (exec_roundKeys h).resolve_right ?_
    rintro ⟨rfl, _⟩
    rcases hi with hi | hi | hi <;> cases hi
    exact hne rfl
  · rintro rfl
    exact (exec_dout h).resolve_right (by simp)

/-- Settles O4: the OP of a word that decodes is 1 to 4. -/
theorem illegalOpcodeSetsOnlyStatus : Obligations.IllegalOpcodeSetsOnlyStatus := by
  refine fun w s hbad => runCommand_of_no_command (fun i hd => ?_) s
  obtain ⟨_, _, hop, _⟩ := decode_eq_ok_iff_shift_mask.mp hd
  have hrange := i.op_bounds
  rcases hbad with h0 | h5
  · have hzero : (w &&& 0xF).toNat = 0 := congrArg BitVec.toNat h0
    omega
  · omega

/-- Settles O6: each word is the encoding of its command. -/
theorem wordsWrittenOutDecode : Obligations.WordsWrittenOutDecode := by
  unfold Obligations.WordsWrittenOutDecode
  simp only [decode_eq_ok_iff_encode]
  decide

/-- Settles O47, by the LEN check. -/
theorem wrongLengthIsRejectedBeforeComputation :
    Obligations.WrongLengthIsRejectedBeforeComputation := fun _ s h => exec_of_len_ne h s

end Sys2Proof.Machine
end

section
/-! SUPPORT. tau acts on the bytes of a word one by one, and loses nothing; L' is linear as L is
(40_round_primitives.md R103, R105, R108). -/

namespace Sys2Proof.Machine

/-! #### The bytes of a word -/

theorem bytesBe32_get (x : Word) (k : Fin 4) : (bytesBe32 x).get k = byteOf k x := by
  fin_cases k <;> rfl

/-- A word is fixed by its four bytes. -/
theorem eq_of_byteOf_eq {x y : Word} (h : ∀ k : Fin 4, byteOf k x = byteOf k y) : x = y := by
  have hbytes : bytesBe32 x = bytesBe32 y :=
    Quad.ext_get fun k => by rw [bytesBe32_get, bytesBe32_get, h k]
  rw [← be32_bytesBe32 x, hbytes, be32_bytesBe32]

/-! #### tau -/

theorem bytesBe32_tau (x : Word) : bytesBe32 (tau x) = (bytesBe32 x).map sbox := bytesBe32_be32 _

/-- Byte k of tau is the substituted byte k (40_round_primitives.md R103). -/
theorem byteOf_tau (x : Word) (k : Fin 4) : byteOf k (tau x) = sbox (byteOf k x) := by
  rw [← bytesBe32_get, bytesBe32_tau, Quad.get_map, bytesBe32_get]

/-- The first place of a byte in the table of SBOX. The bytes are compared as numbers, which the
kernel does in one step. -/
def sboxIndex (b : Byte) : Byte :=
  BitVec.ofNat 8 (sboxRows.flatten.findIdx fun c => Nat.beq c.toNat b.toNat)

/-- Each entry of SBOX is at the first place of its byte: no byte stands in the table twice. -/
theorem sboxIndex_sbox : Function.LeftInverse sboxIndex sbox := by
  unfold Function.LeftInverse
  decide +kernel

theorem sbox_injective : Function.Injective sbox := sboxIndex_sbox.injective

theorem tau_injective : Function.Injective tau := fun x y h =>
  eq_of_byteOf_eq fun k => sbox_injective (by rw [← byteOf_tau, ← byteOf_tau, h])

theorem tau_bijective : Function.Bijective tau := Finite.injective_iff_bijective.mp tau_injective

/-! #### L' -/

/-- L' distributes over XOR (40_round_primitives.md R108). -/
theorem linLp_xor (x y : Word) : linLp (x ^^^ y) = linLp x ^^^ linLp y := by
  simp only [linLp, rotl32_xor _ _ (show 13 < 32 by decide),
    rotl32_xor _ _ (show 23 < 32 by decide)]
  ac_rfl

/-- L' commutes with rotations (40_round_primitives.md R108). -/
theorem linLp_rotl32 (x : Word) {n : Nat} (hn : n < 32) :
    linLp (rotl32 x n) = rotl32 (linLp x) n := by
  simp only [linLp, rotl32_xor _ _ hn, rotl32_comm x (show 13 < 32 by decide) hn,
    rotl32_comm x (show 23 < 32 by decide) hn]

end Sys2Proof.Machine
end

section
/-! The obligations of 40_round_primitives.md: the constant tables, tau, the linear transforms and
the table form of T. -/

namespace Sys2Proof.Machine

/-- Settles O19: tau substitutes byte by byte, and SBOX is injective. -/
theorem tauSubstitutesBytesBijectively : Obligations.TauSubstitutesBytesBijectively :=
  ⟨byteOf_tau, tau_bijective, rfl, rfl, rfl⟩

/-- Settles O20: rotations distribute over XOR and commute with each other. -/
theorem linearTransformsDistributeAndCommute : Obligations.LinearTransformsDistributeAndCommute :=
  ⟨fun a b => ⟨linL_xor a b, linLp_xor a b⟩, rfl, rfl,
    fun a _ hn => ⟨linL_rotl32 a (Nat.lt_succ_of_le hn), linLp_rotl32 a (Nat.lt_succ_of_le hn)⟩,
    rfl⟩

/-- Settles O22: T is linear in the four substituted bytes, and each entry of TT is L of one. -/
theorem tableFormEqualsT : Obligations.TableFormEqualsT := fun x => ⟨rfl, tTab_eq_roundT x, rfl⟩

/-- Settles O18, by the 128 bytes of the stored table. -/
theorem roundParametersFollowTheFormula : Obligations.RoundParametersFollowTheFormula := by
  refine ⟨rfl, ?_⟩
  decide +kernel

/-- Settles O21, by the entries of the stored table. -/
theorem tableEntriesAreLOfTheTopByte : Obligations.TableEntriesAreLOfTheTopByte :=
  ⟨tt_eq_linL, rfl, rfl, rfl⟩

end Sys2Proof.Machine
end

section
/-! SUPPORT. The window rounds in their sequence form: each round appends one word to a sequence and
moves the window one word on (41_key_schedule.md R130; 42_scalar_engine.md R141). -/

namespace Sys2Proof.Machine

variable (f : Block → Word → Word)

/-- The words that pass through a window: its four words, then what the round function f gives for
each parameter of q, and for the parameter 0 when q is used up. -/
def windowSeq (x : Block) (q : List Word) : Nat → Word
  | 0 => x.w0
  | i + 1 => windowSeq (x.shiftIn (f x (q.headD 0))) q.tail i

/-- Word i + 4 is the round function's value for parameter i and the window of the four words
before it. -/
theorem windowSeq_add_four (x : Block) (q : List Word) (i : Nat) :
    windowSeq f x q (i + 4) =
      f ⟨windowSeq f x q i, windowSeq f x q (i + 1), windowSeq f x q (i + 2),
        windowSeq f x q (i + 3)⟩ (q.getD i 0) := by
  induction i generalizing x q with
  | zero => cases q <;> rfl
  | succ i ih => cases q <;> exact ih _ _

/-- The rounds of KeyExpand give the words behind the window (41_key_schedule.md R130). -/
theorem expandFrom_eq_windowSeq (x : Block) (q : List Word) :
    expandFrom x q = (List.range q.length).map fun i => windowSeq keyRound x q (i + 4) := by
  induction q generalizing x with
  | nil => rfl
  | cons c q ih =>
    rw [List.length_cons, List.range_succ_eq_map, List.map_cons, List.map_map, expandFrom, ih]
    rfl

/-- Entry i of the round-key file is s_{i+4} (41_key_schedule.md R131). -/
theorem roundKeyFile_eq_windowSeq (k : Block) :
    roundKeyFile k =
      Vector.ofFn fun i => windowSeq keyRound (initialWindow k) ck (i.val + 4) := by
  ext i hi
  simp [roundKeyFile, keyExpand, expandFrom_eq_windowSeq]

end Sys2Proof.Machine
end

section
/-! The obligations of 41_key_schedule.md: the sequence form of KeyExpand, KEYSET and the known
answers. -/

namespace Sys2Proof.Machine

/-- Settles O23: the sequence is the one that passes through the window of KeyExpand. -/
theorem keyExpandFollowsTheSequence : Obligations.KeyExpandFollowsTheSequence := fun k =>
  ⟨windowSeq keyRound (initialWindow k) ck, rfl, rfl, rfl, rfl,
    fun i _ => windowSeq_add_four keyRound _ _ i, expandFrom_eq_windowSeq _ _⟩

/-- Settles O24: KEYSET runs KeyExpand over the window of the four key registers. -/
theorem keysetInstallsTheRoundKeys : Obligations.KeysetInstallsTheRoundKeys := by
  intro s
  refine ⟨windowSeq keyRound (initialWindow s.keyBlock) ck, rfl, rfl, rfl, rfl,
    fun i _ => windowSeq_add_four keyRound _ _ i, ?_⟩
  rw [← roundKeyFile_eq_windowSeq]
  rfl

/-- Settles O25, by running the key schedule and the two directions of the cipher once. -/
theorem knownAnswers : Obligations.KnownAnswers := by
  unfold Obligations.KnownAnswers
  decide +kernel

end Sys2Proof.Machine
end

section
/-! SUPPORT. The scalar engine: Crypt in its sequence form, Crypt undone with the round keys in
reverse order (42_scalar_engine.md R141, R146), the operand and result blocks as register reads, and
the answers of ENC, DEC and ENCN past the LEN check. -/

namespace Sys2Proof.Machine

/-! #### Crypt as a sequence -/

/-- Rounds that each shift in what f gives end in the last four words of the sequence. -/
theorem foldl_shiftIn_eq_windowSeq (f : Block → Word → Word) (x : Block) (q : List Word) :
    q.foldl (fun x k => x.shiftIn (f x k)) x =
      ⟨windowSeq f x q q.length, windowSeq f x q (q.length + 1), windowSeq f x q (q.length + 2),
        windowSeq f x q (q.length + 3)⟩ := by
  induction q generalizing x with
  | nil => rfl
  | cons k q ih => exact ih _

/-- The word a cipher round shifts in (42_scalar_engine.md R140). -/
def cipherWord (x : Block) (k : Word) : Word := x.w0 ^^^ roundT (x.w1 ^^^ x.w2 ^^^ x.w3 ^^^ k)

theorem cipherRound_eq_shiftIn :
    cipherRound = fun x k => x.shiftIn (cipherWord x k) := rfl

/-- Crypt's output is the last four words of the sequence, last one first (42_scalar_engine.md
R141). -/
theorem crypt_eq_windowSeq (q : List Word) (x : Block) :
    crypt q x =
      ⟨windowSeq cipherWord x q (q.length + 3), windowSeq cipherWord x q (q.length + 2),
        windowSeq cipherWord x q (q.length + 1), windowSeq cipherWord x q q.length⟩ := by
  rw [crypt, cipherRound_eq_shiftIn, foldl_shiftIn_eq_windowSeq]
  rfl

/-! #### Crypt undone -/

/-- A round on the reversed window undoes the round with the same key, whatever T is: the word that
leaves the window is XORed twice with the same value. -/
theorem cipherRound_reverse_cipherRound (x : Block) (k : Word) :
    cipherRound (cipherRound x k).reverse k = x.reverse := by
  have hcomm : x.w3 ^^^ x.w2 ^^^ x.w1 = x.w1 ^^^ x.w2 ^^^ x.w3 := by ac_rfl
  simp [cipherRound, Quad.reverse, Quad.shiftIn, hcomm, BitVec.xor_assoc]

/-- The rounds undone one by one, the last one first. -/
theorem foldl_reverse_cipherRound (q : List Word) (x : Block) :
    q.reverse.foldl cipherRound (q.foldl cipherRound x).reverse = x.reverse := by
  induction q generalizing x with
  | nil => rfl
  | cons k q ih =>
    simp only [List.reverse_cons, List.foldl_append, List.foldl_cons, List.foldl_nil, ih,
      cipherRound_reverse_cipherRound]

/-- Crypt with the round keys in reverse order undoes Crypt (42_scalar_engine.md R146). -/
theorem crypt_reverse_crypt (q : List Word) (x : Block) : crypt q.reverse (crypt q x) = x :=
  congrArg Quad.reverse (foldl_reverse_cipherRound q x)

theorem decryptBlock_encryptBlock (rk : List Word) (x : Block) :
    decryptBlock rk (encryptBlock rk x) = x := crypt_reverse_crypt rk x

theorem encryptBlock_decryptBlock (rk : List Word) (x : Block) :
    encryptBlock rk (decryptBlock rk x) = x := by
  simpa [encryptBlock, decryptBlock] using crypt_reverse_crypt rk.reverse x

/-! #### Operands and results as registers -/

theorem keyBlock_get (s : State) (i : Fin 4) : s.keyBlock.get i = s.readReg (.key i) := by
  fin_cases i <;> rfl

theorem dinBlock_get (s : State) (i : Fin 4) : s.dinBlock.get i = s.readReg (.din i) := by
  fin_cases i <;> rfl

theorem keyBlock_congr {s s' : State} (h : ∀ i, s.readReg (.key i) = s'.readReg (.key i)) :
    s.keyBlock = s'.keyBlock :=
  Quad.ext_get fun i => by rw [keyBlock_get, keyBlock_get, h]

theorem dinBlock_congr {s s' : State} (h : ∀ i, s.readReg (.din i) = s'.readReg (.din i)) :
    s.dinBlock = s'.dinBlock :=
  Quad.ext_get fun i => by rw [dinBlock_get, dinBlock_get, h]

/-- The result of ENC or DEC as DOUT0..DOUT3 read it (42_scalar_engine.md R144, R145). -/
theorem readReg_dout_of_map {s : State} {y : Block} (h : s.dout = y.map Reg.of) (i : Fin 4) :
    s.readReg (.dout i) = y.get i := by
  simp [State.readReg, h]

/-- A result copied from DOUT0..DOUT3 to DIN0..DIN3 is the input block (10_state.md R27, R28). -/
theorem dinBlock_copyDout {s : State} {y : Block} (h : s.dout = y.map Reg.of) :
    State.dinBlock { s with din := s.dout } = y :=
  Quad.ext_get fun i => by simp [dinBlock_get, State.readReg, h]

theorem encKeys_length (s : State) : s.encKeys.length = 32 := by simp [State.encKeys]

/-- Round r of ENC uses RK[r] (42_scalar_engine.md R142). -/
theorem encKeys_getD (s : State) (r : Fin 32) : s.encKeys.getD r.val 0 = s.rk[r] := by
  simp [State.encKeys]

/-- Round r of DEC uses RK[31 - r] (42_scalar_engine.md R143). -/
theorem encKeys_reverse_getD (s : State) (r : Fin 32) :
    s.encKeys.reverse.getD r.val 0 = s.rk[31 - r.val] := by
  simp [State.encKeys]

/-! #### The answers of ENC, DEC and ENCN -/

/-- With a valid key ENC completes (42_scalar_engine.md R144). -/
theorem exec_enc_of_key {s : State} (hk : s.keyValid = true) :
    exec (.enc 16) s = .next (s.writeDout (encryptBlock s.encKeys s.dinBlock)).succeed := by
  simp [exec, execEnc, hk]

/-- With a valid key DEC completes (42_scalar_engine.md R145). -/
theorem exec_dec_of_key {s : State} (hk : s.keyValid = true) :
    exec (.dec 16) s = .next (s.writeDout (decryptBlock s.encKeys s.dinBlock)).succeed := by
  simp [exec, execDec, hk]

theorem exec_keyset (s : State) : exec (.keyset 16) s = .next s.installKey.succeed := rfl

/-- The key check comes right behind the LEN check in every command but KEYSET (42_scalar_engine.md
R144, R145; 44_batch.md R180). -/
theorem exec_of_no_key {i : Instr} {s : State} (hi : i ≠ .keyset 16) (hlen : i.len = 16)
    (hk : s.keyValid = false) : exec i s = .next (s.raiseError .noKey) := by
  cases i <;> cases hlen
  case keyset => exact absurd rfl hi
  all_goals exact if_pos hk

end Sys2Proof.Machine
end

section
/-! The obligations of 42_scalar_engine.md: the sequence form of Crypt, ENC and DEC, and the key
check. -/

namespace Sys2Proof.Machine

/-- Settles O26: the sequence is the one that passes through the window of the 32 rounds. -/
theorem cryptFollowsTheSequence : Obligations.CryptFollowsTheSequence := by
  intro q x hq
  refine ⟨windowSeq cipherWord x q, rfl, rfl, rfl, rfl,
    fun r _ => windowSeq_add_four cipherWord x q r, ?_⟩
  rw [crypt_eq_windowSeq, hq]

/-- Settles O27, by the sequence of Crypt over RK in canonical order. -/
theorem encWritesTheCiphertext : Obligations.EncWritesTheCiphertext := by
  intro s hk
  obtain ⟨X, h0, h1, h2, h3, hround, hout⟩ :=
    cryptFollowsTheSequence s.encKeys s.dinBlock (encKeys_length s)
  refine ⟨X, h0, h1, h2, h3, fun r => by rw [← encKeys_getD, hround r r.isLt], ?_⟩
  rw [exec_enc_of_key hk, encryptBlock, hout]
  rfl

/-- Settles O28, by the sequence of Crypt over RK in reverse order. -/
theorem decWritesThePlaintext : Obligations.DecWritesThePlaintext := by
  intro s hk
  obtain ⟨X, h0, h1, h2, h3, hround, hout⟩ :=
    cryptFollowsTheSequence s.encKeys.reverse s.dinBlock (by simp [encKeys_length])
  refine ⟨X, h0, h1, h2, h3, fun r => by rw [← encKeys_reverse_getD, hround r r.isLt], ?_⟩
  rw [exec_dec_of_key hk, decryptBlock, hout]
  rfl

/-- Settles O29: Crypt with the round keys in reverse order undoes Crypt. -/
theorem decryptAndEncryptAreInverse : Obligations.DecryptAndEncryptAreInverse := fun rk x =>
  ⟨decryptBlock_encryptBlock rk x, encryptBlock_decryptBlock rk x⟩

/-- Settles O30: ENC leaves RK, so DEC of the copied result undoes it. -/
theorem encThenDecRestoresTheBlock : Obligations.EncThenDecRestoresTheBlock := by
  intro s hk
  refine ⟨_, _, exec_enc_of_key hk, exec_dec_of_key (by exact hk), fun i => ?_⟩
  rw [readReg_dout_of_map rfl, dinBlock_copyDout rfl, ← dinBlock_get s]
  exact congrArg (·.get i) (decryptBlock_encryptBlock s.encKeys s.dinBlock)

/-- Settles O31: the results are functions of the operand block and the round keys. -/
theorem resultsDependOnlyOnOperands : Obligations.ResultsDependOnlyOnOperands := by
  intro s s'
  refine ⟨fun hvalid hrk hdin t t' hk => ?_, fun hkey t t' h h' => ?_⟩
  · have hk' : s'.keyValid = true := hvalid ▸ hk
    have hkeys : s.encKeys = s'.encKeys := congrArg Vector.toList hrk
    have hblock := dinBlock_congr hdin
    constructor <;> intro h h'
    · cases (exec_enc_of_key hk).symm.trans h
      cases (exec_enc_of_key hk').symm.trans h'
      simp [hkeys, hblock]
    · cases (exec_dec_of_key hk).symm.trans h
      cases (exec_dec_of_key hk').symm.trans h'
      simp [hkeys, hblock]
  · cases (exec_keyset s).symm.trans h
    cases (exec_keyset s').symm.trans h'
    simp [keyBlock_congr hkey]

/-- Settles O60, by the key check. -/
theorem commandsWithoutKeyEndWithNoKey : Obligations.CommandsWithoutKeyEndWithNoKey := by
  rintro s i (rfl | rfl | rfl) hk <;> exact exec_of_no_key (by simp) rfl hk

end Sys2Proof.Machine
end

section
/-! SUPPORT. Four lane-vectors are their eight lanes, and the bytes of a block its four rows
(10_state.md R39; 43_vector_engine.md R162). -/

namespace Sys2Proof.Machine

theorem quadAt_toList (b : ByteBlock) (i : Fin 4) : quadAt b.toList (4 * i.val) = b.get i := by
  fin_cases i <;> rfl

/-- Word i of lane j is lane j of lane-vector i. -/
theorem laneBlock_get (v : Quad (Lanes Word)) (i : Fin 4) (j : Fin 8) :
    (laneBlock v j).get i = (v.get i).get j := Quad.get_map _ v i

/-- Four lane-vectors are fixed by their lanes. -/
theorem eq_of_laneBlock_eq {u v : Quad (Lanes Word)} (h : ∀ j, laneBlock u j = laneBlock v j) :
    u = v :=
  Quad.ext_get fun i => Lanes.ext_get fun j => by rw [← laneBlock_get, h j, laneBlock_get]

end Sys2Proof.Machine
end

section
/-! The obligations of 43_vector_engine.md: the lane mapping, the vector transform, the vector round
and VENC8. -/

namespace Sys2Proof.Machine

/-- Settles O37, by the lanes of the transpose, of each vector round and of the inverse transpose. -/
theorem vectorEngineEqualsScalarEngine : Obligations.VectorEngineEqualsScalarEngine := venc8_get

/-- Settles O34: lane j of the one side and block j of the other are a block's words and bytes. -/
theorem transposeAndUntransposeAreInverse : Obligations.TransposeAndUntransposeAreInverse :=
  ⟨fun p => Lanes.ext_get fun j => by rw [untranspose_get, laneBlock_transpose, bytes_words],
    fun v => eq_of_laneBlock_eq fun j => by
      rw [laneBlock_transpose, untranspose_get, words_bytes]⟩

/-- Settles O35: each lane is T of that lane, and T is the XOR of the four lookups. -/
theorem vectorTransformIsTInEveryLane : Obligations.VectorTransformIsTInEveryLane := by
  intro a j
  have htable : (vectorT a).get j = tTab (a.get j) :=
    (vectorT_get a j).trans (tTab_eq_roundT (a.get j)).symm
  exact ⟨htable, htable, vectorT_get a j⟩

/-- Settles O36, by the lanes of a vector round; the scalar round is its written-out form. -/
theorem vectorRoundIsTheScalarRoundInEveryLane :
    Obligations.VectorRoundIsTheScalarRoundInEveryLane := fun v k j =>
  ⟨laneBlock_vectorRound v k j, rfl⟩

/-- Settles O33: lane j of the transpose is the words of block j. -/
theorem transposeFollowsTheLaneMapping : Obligations.TransposeFollowsTheLaneMapping := by
  intro b i j
  rw [← laneBlock_get, laneBlock_transpose, ByteBlock.words, Quad.get_map, quadAt_toList]

end Sys2Proof.Machine
end

section
/-! SUPPORT. ENCN's two ways through a buffer end in the same bytes, what ENCN completes with, and
what its outcomes leave unchanged (44_batch.md R180, R181, R186, R188). -/

namespace Sys2Proof.Machine

/-! #### The path is invisible -/

/-- Byte 4i + j of block k lies 4i + j behind the block's address (20_memory.md R54). -/
theorem blockAt_get_get (m : Memory) (base k : Nat) (i j : Fin 4) :
    ((blockAt m base k).get i).get j =
      Memory.readByte m (base + 16 * k + (4 * i.val + j.val)) := by
  fin_cases i <;> fin_cases j <;> rfl

/-- An equal block reads the same at each of its 16 addresses. -/
theorem readByte_eq_of_blockAt_eq {m m' : Memory} {base k x : Nat}
    (h : blockAt m base k = blockAt m' base k) (hx : base + 16 * k ≤ x ∧ x < base + 16 * k + 16) :
    Memory.readByte m x = Memory.readByte m' x := by
  obtain ⟨i, j, rfl⟩ : ∃ i j : Fin 4, x = base + 16 * k + (4 * i.val + j.val) :=
    ⟨⟨(x - (base + 16 * k)) / 4, by omega⟩, ⟨(x - (base + 16 * k)) % 4, by omega⟩, by
      simp only; omega⟩
  rw [← blockAt_get_get, ← blockAt_get_get, h]

section
variable {cfg : Config} {rk : List Word} {src dst n a b : Nat} {m m₁ m₂ : Memory}

/-- Encrypting the same blocks of one memory leaves the same bytes, whatever the path (44_batch.md
R186). -/
theorem EncryptsBlocks.readByte_eq (h₁ : EncryptsBlocks rk src dst a b m m₁)
    (h₂ : EncryptsBlocks rk src dst a b m m₂) (hm : Memory.wf m = true) (x : Nat) :
    Memory.readByte m₁ x = Memory.readByte m₂ x := by
  by_cases hx : dst + 16 * a ≤ x ∧ x < dst + 16 * b
  · have hblock : blockAt m₁ dst ((x - dst) / 16) = blockAt m₂ dst ((x - dst) / 16) := by
      rw [h₁.blocks _ (by omega) (by omega), h₂.blocks _ (by omega) (by omega)]
    exact readByte_eq_of_blockAt_eq hblock (by omega)
  · rw [h₁.touches.frame hm x hx, h₂.touches.frame hm x hx]

/-- The loop of scalar blocks alone encrypts the whole buffer (44_batch.md R184). -/
theorem scalarLoop_encrypts (hsd : sameOrDisjoint src dst n) (hm : Memory.wf m = true)
    (h : memLoop (runScalar cfg rk src dst) 0 n m = some m₁) :
    EncryptsBlocks rk src dst 0 n m m₁ := by
  simpa using memLoop_encrypts (rk := rk) (w := 1) hsd
    (by simpa only [Nat.one_mul] using @runScalar_encrypts cfg rk src dst) n hm (by omega) h

/-- Where the platform admits every access the loop of scalar blocks completes (20_memory.md
R63). -/
theorem scalarLoop_completes (hadm : admitsBuffers cfg src dst n) :
    ∃ m', memLoop (runScalar cfg rk src dst) 0 n m = some m' :=
  Option.isSome_iff_exists.mp <|
    (memLoop_isSome (runScalar_isSome cfg rk src dst) n 0 m).mpr fun k _ hk => hadm k (by omega)

/-- Where the platform admits every access ENCN's loops complete (20_memory.md R63). -/
theorem encryptBuffer_completes (hadm : admitsBuffers cfg src dst n) :
    ∃ m', encryptBuffer cfg rk src dst n m = some m' :=
  Option.isSome_iff_exists.mp ((encryptBuffer_isSome cfg rk src dst n m).mpr hadm)

end

/-! #### The outcomes of ENCN -/

section
variable {s t : State} {n : Nat}

/-- Behind its checks ENCN whose loops complete ends with their memory and ERR = 0 (44_batch.md
R180). -/
theorem execEncn_of_encryptBuffer {m : Memory} (hk : s.keyValid = true) (hn : s.blockCount ≠ 0)
    (hfit : fitsSpace s.cfg s.srcAddr s.dstAddr s.blockCount)
    (hsd : sameOrDisjoint s.srcAddr s.dstAddr s.blockCount)
    (hplain : plainBuffers s.cfg s.srcAddr s.dstAddr s.blockCount)
    (hbuf : encryptBuffer s.cfg s.encKeys s.srcAddr s.dstAddr s.blockCount s.mem = some m) :
    execEncn 16 s = .next { s with mem := m, err := .ok } := by
  rw [execEncn_of_checks hk hn hfit hsd, if_neg (by simp [onDevice_eq_false.mpr hplain]),
    State.runBatch, hbuf]
  rfl

/-- With N = 0 ENCN succeeds right behind the key check (44_batch.md R181). -/
theorem execEncn_of_blockCount_zero (hk : s.keyValid = true) (hn : s.blockCount = 0) :
    execEncn 16 s = .next s.succeed := by
  simp [execEncn, hk, hn]

/-- Nothing but memory and STATUS differs, and STATUS.ANY_ERR only with an error (44_batch.md
R188). -/
def State.KeepsAllButMemAndStatus (s t : State) : Prop :=
  t = { s with mem := t.mem, err := t.err, anyErr := t.anyErr } ∧ (t.err = .ok → t.anyErr = s.anyErr)

theorem keepsAllButMemAndStatus_success (s : State) (m : Memory) :
    s.KeepsAllButMemAndStatus { s with mem := m, err := .ok } :=
  ⟨rfl, fun _ => rfl⟩

theorem keepsAllButMemAndStatus_error (s : State) (m : Memory) {c : ErrCode} (hc : c ≠ .ok) :
    s.KeepsAllButMemAndStatus { s with mem := m, err := c, anyErr := true } :=
  ⟨rfl, fun h => absurd h hc⟩

theorem execEncn_keepsAllButMemAndStatus (h : execEncn n s = .next t) :
    s.KeepsAllButMemAndStatus t := by
  rcases execEncn_next h with
    ⟨_, rfl⟩ | ⟨_, _, rfl⟩ | ⟨_, _, _, rfl⟩ | ⟨_, _, _, _, rfl⟩ | ⟨_, _, _, _, _, _, rfl⟩
  · exact keepsAllButMemAndStatus_error s s.mem (by decide)
  · exact keepsAllButMemAndStatus_error s s.mem (by decide)
  · exact keepsAllButMemAndStatus_success s s.mem
  · exact keepsAllButMemAndStatus_error s s.mem (by decide)
  · rcases runBatch_eq s.srcAddr s.dstAddr s.blockCount s with ⟨m, _, e⟩ | ⟨_, e⟩ <;> rw [e]
    · exact keepsAllButMemAndStatus_success s m
    · exact keepsAllButMemAndStatus_error s _ (by decide)

end

end Sys2Proof.Machine
end

section
/-! The obligations of 44_batch.md: ENCN's completion, its path, its frame and its N = 0. -/

namespace Sys2Proof.Machine

/-- Settles O41: the loops complete, and what they leave is the encryption. -/
theorem encnEncryptsTheBuffer : Obligations.EncnEncryptsTheBuffer := by
  intro s hm hk hn hfit hsd hplain hadm
  obtain ⟨m, hbuf⟩ := encryptBuffer_completes (rk := s.encKeys) (m := s.mem) hadm
  have henc := encryptBuffer_encrypts hsd hm hbuf
  exact ⟨m, execEncn_of_encryptBuffer hk hn hfit hsd hplain hbuf,
    fun k hlt => henc.blocks k (Nat.zero_le k) hlt, henc.touches.frame hm⟩

/-- Settles O42: both loops encrypt the same blocks of the same memory. -/
theorem vectorPathIsInvisible : Obligations.VectorPathIsInvisible := by
  intro cfg rk src dst n m hm hsd hadm
  obtain ⟨m₁, h₁⟩ := encryptBuffer_completes (rk := rk) (m := m) hadm
  obtain ⟨m₂, h₂⟩ := scalarLoop_completes (rk := rk) (m := m) hadm
  exact ⟨m₁, m₂, h₁, h₂,
    (encryptBuffer_encrypts hsd hm h₁).readByte_eq (scalarLoop_encrypts hsd hm h₂) hm⟩

/-- Settles O45, by the frame of each of ENCN's outcomes. -/
theorem encnWritesNoRegisterButStatus : Obligations.EncnWritesNoRegisterButStatus :=
  fun _ _ _ h => execEncn_keepsAllButMemAndStatus h

/-- Settles O38: the LEN and key checks come first, and the test of N is next. -/
theorem encnOfZeroBlocksSucceeds : Obligations.EncnOfZeroBlocksSucceeds := fun s hn =>
  ⟨fun hk => execEncn_of_blockCount_zero hk (congrArg BitVec.toNat hn),
    fun hk => exec_of_no_key (by simp) rfl hk, fun n hlen =>
      exec_of_len_ne (i := .encn n) hlen s⟩

end Sys2Proof.Machine
end

section
/-! SUPPORT. What a command records in STATUS, that ERR and ANY_ERR decide no command, and
when ENCN ends with MEM (60_exceptions.md R201 to R210). -/

namespace Sys2Proof.Machine

/-! #### What a command records in STATUS -/

/-- How STATUS and the rest of a command's next state `t` belong together: success leaves ANY_ERR,
an error other than MEM changes STATUS alone, and MEM sets ANY_ERR (60_exceptions.md R203, R205,
R206). -/
inductive State.StatusRecorded (s t : State) : Prop where
  | success (herr : t.err = .ok) (hany : t.anyErr = s.anyErr)
  | error (c : ErrCode) (hc : c ≠ .ok) (ht : t = s.raiseError c)
  | memError (herr : t.err = .mem) (hany : t.anyErr = true)

theorem runBatch_statusRecorded (src dst n : Nat) (s : State) :
    s.StatusRecorded (s.runBatch src dst n) := by
  rcases runBatch_eq src dst n s with ⟨m, _, e⟩ | ⟨_, e⟩ <;> rw [e]
  · exact .success rfl rfl
  · exact .memError rfl rfl

theorem exec_statusRecorded {i : Instr} {s t : State} (h : exec i s = .next t) :
    s.StatusRecorded t := by
  cases i with
  | keyset n =>
    rcases execKeyset_eq n s with ⟨_, e⟩ | ⟨_, e⟩ <;> cases e.symm.trans h
    · exact .error .precondition (by decide) rfl
    · exact .success rfl rfl
  | enc n =>
    rcases execEnc_eq n s with ⟨_, e⟩ | ⟨_, _, e⟩ | ⟨_, _, e⟩ <;> cases e.symm.trans h
    · exact .error .precondition (by decide) rfl
    · exact .error .noKey (by decide) rfl
    · exact .success rfl rfl
  | dec n =>
    rcases execDec_eq n s with ⟨_, e⟩ | ⟨_, _, e⟩ | ⟨_, _, e⟩ <;> cases e.symm.trans h
    · exact .error .precondition (by decide) rfl
    · exact .error .noKey (by decide) rfl
    · exact .success rfl rfl
  | encn n =>
    rcases execEncn_next h with
      ⟨_, rfl⟩ | ⟨_, _, rfl⟩ | ⟨_, _, _, rfl⟩ | ⟨_, _, _, _, rfl⟩ | ⟨_, _, _, _, _, _, rfl⟩
    · exact .error .precondition (by decide) rfl
    · exact .error .noKey (by decide) rfl
    · exact .success rfl rfl
    · exact .error .range (by decide) rfl
    · exact runBatch_statusRecorded ..

theorem runCommand_statusRecorded {w : Word} {s t : State} (h : runCommand w s = .next t) :
    s.StatusRecorded t := by
  rcases runCommand_next h with ⟨i, _, hexec⟩ | ⟨_, rfl⟩
  · exact exec_statusRecorded hexec
  · exact .error .illegalCmd (by decide) rfl

section
variable {s t : State} (h : s.StatusRecorded t)
include h

/-- An error before any computation changes only STATUS (60_exceptions.md R203). -/
theorem State.StatusRecorded.eq_of_err (hok : t.err ≠ .ok) (hmem : t.err ≠ .mem) :
    t = { s with err := t.err, anyErr := true } := by
  cases h with
  | success herr _ => exact absurd herr hok
  | error c _ ht => subst ht; rfl
  | memError herr _ => exact absurd herr hmem

/-- Success leaves ANY_ERR (60_exceptions.md R206). -/
theorem State.StatusRecorded.anyErr_of_ok (hok : t.err = .ok) : t.anyErr = s.anyErr := by
  cases h with
  | success _ hany => exact hany
  | error c hc ht => subst ht; exact absurd hok hc
  | memError herr _ => cases herr.symm.trans hok

/-- Every error sets ANY_ERR (60_exceptions.md R203, R205). -/
theorem State.StatusRecorded.anyErr_of_err (hok : t.err ≠ .ok) : t.anyErr = true := by
  cases h with
  | success herr _ => exact absurd herr hok
  | error c _ ht => subst ht; rfl
  | memError _ hany => exact hany

/-- No command clears ANY_ERR (60_exceptions.md R207). -/
theorem State.StatusRecorded.anyErr_sticky (hany : s.anyErr = true) : t.anyErr = true := by
  by_cases hok : t.err = .ok
  · rw [h.anyErr_of_ok hok, hany]
  · exact h.anyErr_of_err hok

end

/-! #### ANY_ERR under a step -/

section
variable {s t : State} (h : step s = .next t)
include h

/-- Both resets, between commands and during one, clear ANY_ERR (70_reset_and_hazards.md R230,
R231). -/
theorem anyErr_of_resetPending (hreset : s.resetPending) : t.anyErr = false := by
  obtain ⟨rest, hp | ⟨w, hp⟩⟩ := hreset <;> cases (step_cons hp).symm.trans h <;> rfl

/-- A step that is no reset keeps a set ANY_ERR (60_exceptions.md R207). -/
theorem step_anyErr_sticky (hany : s.anyErr = true) : s.resetPending ∨ t.anyErr = true := by
  rcases step_next h with hreset | ⟨_, _, _, hrun⟩ | hsame
  · exact .inl hreset
  · exact .inr ((runCommand_statusRecorded hrun).anyErr_sticky hany)
  · exact .inr (hsame.anyErr.trans hany)

end

/-! #### ENCN's loops and MEM -/

section
variable {s : State} {src dst n : Nat}

theorem runBatch_of_some {m : Memory}
    (h : encryptBuffer s.cfg s.encKeys src dst n s.mem = some m) :
    s.runBatch src dst n = { s with mem := m, err := .ok } := by
  rw [State.runBatch, h]
  rfl

theorem runBatch_of_none (h : encryptBuffer s.cfg s.encKeys src dst n s.mem = none) :
    s.runBatch src dst n = s.raiseMem dst (16 * n) := by
  rw [State.runBatch, h]

/-- Where the platform admits every access ENCN's loops end in success (60_exceptions.md R206). -/
theorem runBatch_err_of_admits (h : admitsBuffers s.cfg src dst n) :
    (s.runBatch src dst n).err = .ok := by
  obtain ⟨m, hbuf⟩ := encryptBuffer_completes (rk := s.encKeys) (m := s.mem) h
  rw [runBatch_of_some hbuf]

/-- A refused access ends ENCN's loops with Error(MEM) (60_exceptions.md R205). -/
theorem runBatch_of_not_admits (h : ¬ admitsBuffers s.cfg src dst n) :
    s.runBatch src dst n = s.raiseMem dst (16 * n) := by
  rw [← encryptBuffer_isSome s.cfg s.encKeys src dst n s.mem, Option.not_isSome_iff_eq_none] at h
  exact runBatch_of_none h

section
variable (hk : s.keyValid = true) (hn : s.blockCount ≠ 0)
  (hfit : fitsSpace s.cfg s.srcAddr s.dstAddr s.blockCount)
  (hsd : sameOrDisjoint s.srcAddr s.dstAddr s.blockCount)
include hk hn hfit hsd

/-- On plain memory ENCN runs its loops behind its checks (44_batch.md R180). -/
theorem execEncn_of_plain (hplain : plainBuffers s.cfg s.srcAddr s.dstAddr s.blockCount) :
    execEncn 16 s = .next (s.runBatch s.srcAddr s.dstAddr s.blockCount) := by
  rw [execEncn_of_checks hk hn hfit hsd, if_neg (by simp [onDevice_eq_false.mpr hplain])]

/-- Behind its checks ENCN answers a next state only by running its loops (44_batch.md R180). -/
theorem eq_runBatch_of_execEncn {t : State} (h : execEncn 16 s = .next t) :
    t = s.runBatch s.srcAddr s.dstAddr s.blockCount := by
  have hrun := (execEncn_of_checks hk hn hfit hsd).symm.trans h
  split at hrun <;> cases hrun
  rfl

end

end

/-! #### ERR and ANY_ERR decide no command -/

/-- No command reads ERR, and each outcome overwrites it (60_exceptions.md R210). -/
theorem exec_withErr (i : Instr) (s : State) (e : ErrCode) :
    exec i { s with err := e } = exec i s := by
  cases i with
  | keyset n => rfl
  | enc n => rfl
  | dec n => rfl
  | encn n => rfl

theorem runBatch_withAnyErr (src dst n : Nat) (s : State) :
    State.runBatch src dst n { s with anyErr := true } =
      { s.runBatch src dst n with anyErr := true } := by
  rcases runBatch_eq src dst n s with ⟨m, hbuf, e⟩ | ⟨hbuf, e⟩ <;> rw [e]
  · exact runBatch_of_some hbuf
  · exact runBatch_of_none hbuf

theorem passesTop_eq_true {cfg : Config} {src dst n : Nat} :
    passesTop cfg src dst n = true ↔ ¬ fitsSpace cfg src dst n := by
  rw [fitsSpace, ← passesTop_eq_false, Bool.not_eq_false]

theorem partlyOverlap_eq_true {src dst n : Nat} :
    partlyOverlap src dst n = true ↔ ¬ sameOrDisjoint src dst n := by
  rw [← partlyOverlap_eq_false, Bool.not_eq_false]

/-- ENCN takes the same branch with the sticky bit set, and carries the bit over. -/
theorem execEncn_withAnyErr {n : Nat} {s t : State} (h : execEncn n s = .next t) :
    execEncn n { s with anyErr := true } = .next { t with anyErr := true } := by
  rcases execEncn_next h with
    ⟨hlen, rfl⟩ | ⟨rfl, hk, rfl⟩ | ⟨rfl, hk, hn, rfl⟩ | ⟨rfl, hk, hn, hbad, rfl⟩ |
    ⟨rfl, hk, hn, htop, hov, hdev, rfl⟩
  · exact exec_of_len_ne (i := .encn n) hlen _
  · exact exec_of_no_key (i := .encn 16) (by simp) rfl hk
  · exact execEncn_of_blockCount_zero hk hn
  · exact execEncn_range hk hn (hbad.imp passesTop_eq_true.mp partlyOverlap_eq_true.mp)
  · rw [← runBatch_withAnyErr]
    exact execEncn_of_plain hk hn (passesTop_eq_false.mp htop) (partlyOverlap_eq_false.mp hov)
      (onDevice_eq_false.mp hdev)

/-- A command takes the same branch with the sticky bit set, and carries the bit over
(60_exceptions.md R207, R210). -/
theorem exec_withAnyErr {i : Instr} {s t : State} (h : exec i s = .next t) :
    exec i { s with anyErr := true } = .next { t with anyErr := true } := by
  cases i with
  | keyset n =>
    rcases execKeyset_eq n s with ⟨hlen, e⟩ | ⟨rfl, e⟩ <;> cases e.symm.trans h
    · exact exec_of_len_ne (i := .keyset n) hlen _
    · exact exec_keyset _
  | enc n =>
    rcases execEnc_eq n s with ⟨hlen, e⟩ | ⟨rfl, hk, e⟩ | ⟨rfl, hk, e⟩ <;> cases e.symm.trans h
    · exact exec_of_len_ne (i := .enc n) hlen _
    · exact exec_of_no_key (by simp) rfl hk
    · exact exec_enc_of_key hk
  | dec n =>
    rcases execDec_eq n s with ⟨hlen, e⟩ | ⟨rfl, hk, e⟩ | ⟨rfl, hk, e⟩ <;> cases e.symm.trans h
    · exact exec_of_len_ne (i := .dec n) hlen _
    · exact exec_of_no_key (by simp) rfl hk
    · exact exec_dec_of_key hk
  | encn n => exact execEncn_withAnyErr h

end Sys2Proof.Machine
end

section
/-! The obligations of 60_exceptions.md: which error a command reports, what it records in STATUS,
and what an error leaves unchanged. -/

namespace Sys2Proof.Machine

/-- Settles O43: the loops end with Error(MEM), whose writes are the free bytes. -/
theorem encnRefusedAccessIsMemError : Obligations.EncnRefusedAccessIsMemError := by
  intro s hm hk hn hfit hsd hplain hadm
  refine ⟨(s.scramble s.dstAddr (16 * s.blockCount)).mem, ?_, (scramble_touches ..).frame hm,
    fun a ha => readByte_scramble hm ha⟩
  rw [exec, execEncn_of_plain hk hn hfit hsd hplain, runBatch_of_not_admits hadm]
  rfl

/-- Settles O48, by the outcome of each check in the order the commands make them. -/
theorem firstApplicableErrorIsReported : Obligations.FirstApplicableErrorIsReported := by
  intro w s t h
  refine ⟨fun hno => ?_, fun i hd => ?_⟩
  · cases (runCommand_of_no_command hno s).symm.trans h
    rfl
  · have hexec : exec i s = .next t := (runCommand_ok hd s).symm.trans h
    have herr : ∀ {u : State}, exec i s = .next u → t.err = u.err := by
      intro u hu
      cases hu.symm.trans hexec
      rfl
    refine ⟨fun hlen => herr (exec_of_len_ne hlen s),
      fun hlen hi hk => herr (exec_of_no_key hi hlen hk), ?_, ?_, ?_, ?_, ?_⟩
    · rintro rfl
      exact herr (exec_keyset s)
    · rintro (rfl | rfl) hk
      · exact herr (exec_enc_of_key hk)
      · exact herr (exec_dec_of_key hk)
    · rintro rfl hk hn
      exact herr (execEncn_of_blockCount_zero hk hn)
    · rintro rfl hk hn hbad
      exact herr (execEncn_range hk hn hbad)
    · rintro rfl hk hn hfit hsd
      obtain rfl := eq_runBatch_of_execEncn hk hn hfit hsd hexec
      exact ⟨runBatch_err_of_admits, fun hadm => by rw [runBatch_of_not_admits hadm]; rfl⟩

/-- Settles O49, by what a command records in STATUS. -/
theorem commandOutcomeIsRecordedInStatus : Obligations.CommandOutcomeIsRecordedInStatus := by
  intro w s t h
  have hstatus := runCommand_statusRecorded h
  exact ⟨hstatus.eq_of_err, hstatus.anyErr_of_ok, hstatus.anyErr_of_err⟩

/-- Settles O50: a reset clears ANY_ERR, and every other step keeps it set. -/
theorem onlyResetClearsAnyErr : Obligations.OnlyResetClearsAnyErr := by
  refine fun s t h => ⟨fun hany => ⟨fun hoff => ?_, anyErr_of_resetPending h⟩, ?_⟩
  · exact (step_anyErr_sticky h hany).resolve_right (by simp [hoff])
  · rintro w ⟨rest, hp⟩
    exact (runCommand_statusRecorded ((step_cmdWrite hp).symm.trans h)).anyErr_of_err

/-- Settles O51: no command reads ERR or ANY_ERR, and each carries a set ANY_ERR over. -/
theorem errorsDoNotBlockLaterCommands : Obligations.ErrorsDoNotBlockLaterCommands := fun i s e =>
  ⟨exec_withErr i s e, fun _ h => (exec_withErr i _ e).trans (exec_withAnyErr h)⟩

end Sys2Proof.Machine
end

section
/-! SUPPORT. What a reset makes of a command it abandons, and that ENC, DEC and ENCN read no KEY
register (70_reset_and_hazards.md R231, R234). -/

namespace Sys2Proof.Machine

/-! #### A command that a reset abandons -/

section
variable {w : Word}

theorem abandon_of_encn {n : Nat} (h : decode w = .ok (.encn n)) (s : State) :
    s.abandon w = s.scramble s.dstAddr (min (16 * s.blockCount) (s.cfg.space - s.dstAddr)) := by
  simp [State.abandon, h]

theorem abandon_of_not_encn (h : ∀ n, decode w ≠ .ok (.encn n)) (s : State) : s.abandon w = s := by
  unfold State.abandon
  split
  · exact absurd ‹_› (h _)
  · rfl

/-- Only ENCN writes memory, so an abandoned command writes at most its destination range
(70_reset_and_hazards.md R231). -/
theorem abandon_touches (w : Word) (s : State) :
    Touches s.dstAddr (s.dstAddr + 16 * s.blockCount) s.mem (s.abandon w).mem := by
  by_cases h : ∃ n, decode w = .ok (.encn n)
  · obtain ⟨n, hn⟩ := h
    rw [abandon_of_encn hn]
    exact (scramble_touches ..).mono le_rfl (by omega)
  · rw [abandon_of_not_encn (not_exists.mp h)]
    exact Touches.refl ..

/-- The engine after the reset is the same whatever command it abandons; memory alone tells. -/
theorem resetDuring_eq (w : Word) (s : State) :
    s.resetDuring w = { s.resetEngine with mem := (s.abandon w).mem } := by
  unfold State.resetDuring State.abandon
  split <;> rfl

end

/-! #### KEY is an operand of KEYSET alone -/

section
variable {s t : State} (q : Quad Reg)

theorem runBatch_withKey (src dst n : Nat) (s : State) :
    State.runBatch src dst n { s with key := q } = { s.runBatch src dst n with key := q } := by
  rcases runBatch_eq src dst n s with ⟨m, hbuf, e⟩ | ⟨hbuf, e⟩ <;> rw [e]
  · exact runBatch_of_some hbuf
  · exact runBatch_of_none hbuf

/-- ENCN takes the same branch whatever KEY0..KEY3 hold. -/
theorem execEncn_withKey {n : Nat} (h : execEncn n s = .next t) :
    execEncn n { s with key := q } = .next { t with key := q } := by
  rcases execEncn_next h with
    ⟨hlen, rfl⟩ | ⟨rfl, hk, rfl⟩ | ⟨rfl, hk, hn, rfl⟩ | ⟨rfl, hk, hn, hbad, rfl⟩ |
    ⟨rfl, hk, hn, htop, hov, hdev, rfl⟩
  · exact exec_of_len_ne (i := .encn n) hlen _
  · exact exec_of_no_key (i := .encn 16) (by simp) rfl hk
  · exact execEncn_of_blockCount_zero hk hn
  · exact execEncn_range hk hn (hbad.imp passesTop_eq_true.mp partlyOverlap_eq_true.mp)
  · rw [← runBatch_withKey]
    exact execEncn_of_plain hk hn (passesTop_eq_false.mp htop) (partlyOverlap_eq_false.mp hov)
      (onDevice_eq_false.mp hdev)

/-- Every command but KEYSET does the same whatever KEY0..KEY3 hold (70_reset_and_hazards.md
R234). -/
theorem exec_withKey {i : Instr} (hi : ∀ n, i ≠ .keyset n) (h : exec i s = .next t) :
    exec i { s with key := q } = .next { t with key := q } := by
  cases i with
  | keyset n => exact absurd rfl (hi n)
  | enc n =>
    rcases execEnc_eq n s with ⟨hlen, e⟩ | ⟨rfl, hk, e⟩ | ⟨rfl, hk, e⟩ <;> cases e.symm.trans h
    · exact exec_of_len_ne (i := .enc n) hlen _
    · exact exec_of_no_key (by simp) rfl hk
    · exact exec_enc_of_key hk
  | dec n =>
    rcases execDec_eq n s with ⟨hlen, e⟩ | ⟨rfl, hk, e⟩ | ⟨rfl, hk, e⟩ <;> cases e.symm.trans h
    · exact exec_of_len_ne (i := .dec n) hlen _
    · exact exec_of_no_key (by simp) rfl hk
    · exact exec_dec_of_key hk
  | encn n => exact execEncn_withKey q h

/-- They leave KEY0..KEY3 as well: with KEY as it is, the next state is the same. -/
theorem exec_key {i : Instr} (hi : ∀ n, i ≠ .keyset n) (h : exec i s = .next t) : t.key = s.key := by
  have hsame : t = { t with key := s.key } :=
    Host.Outcome.next.inj (h.symm.trans (exec_withKey s.key hi h))
  rw [hsame]

end

end Sys2Proof.Machine
end

section
/-! The obligations of 70_reset_and_hazards.md: reset, a reset during a command, the idle engine and
a KEY write between commands. -/

namespace Sys2Proof.Machine

/-- Settles O58: the engine after the reset is that of any reset, and memory is what the abandoned
command leaves. -/
theorem resetDuringCommandAbandonsIt : Obligations.ResetDuringCommandAbandonsIt := by
  intro s w rest hm hp
  have hstep : step s = .next ((s.pop rest).resetDuring w) := step_cons hp
  rw [resetDuring_eq] at hstep
  refine ⟨((s.pop rest).abandon w).mem, hstep, (abandon_touches w _).frame hm, fun hno => ?_,
    fun n hd a ha hspace => ?_⟩
  · rw [abandon_of_not_encn hno]
    rfl
  · have hin : (s.pop rest).dstAddr ≤ a ∧ a < (s.pop rest).dstAddr +
        min (16 * (s.pop rest).blockCount) ((s.pop rest).cfg.space - (s.pop rest).dstAddr) := by
      rw [State.pop_cfg]
      omega
    rw [abandon_of_encn hd]
    exact readByte_scramble hm hin

/-- Settles O17: ENC, DEC and ENCN neither read nor write a KEY register. -/
theorem keyWriteActsOnlyAtKeyset : Obligations.KeyWriteActsOnlyAtKeyset := by
  intro s u k v n i hi h
  have hne : ∀ n, i ≠ .keyset n := by rcases hi with rfl | rfl | rfl <;> simp
  refine ⟨?_, State.writeReg_rk ..⟩
  simpa only [State.writeReg, exec_key hne h] using exec_withKey (s.key.set (Reg.of v) k) hne h

/-- Settles O8: a step without a pending host operation is idle. -/
theorem idleEngineDoesNothing : Obligations.IdleEngineDoesNothing := fun _ => step_nil

/-- Settles O57: serving a reset puts the engine at its reset values. -/
theorem resetDestroysTheInstance : Obligations.ResetDestroysTheInstance := fun _ _ => step_cons

end Sys2Proof.Machine
end
